-- ==== Sys2Proof/Word.lean ====
section
/-! DEFINITION. The words, bytes, twelve-word states and blocks of the deck-function block (00_scope.md R9, R13,
R15). Only the types and their zeros stand here; every operator on them is in `Sys2Proof/Machine`. -/

namespace Sys2Proof

/-- A byte: 8 bits, unsigned (R13). -/
abbrev Byte := BitVec 8

/-- A word, or lane: 32 bits, unsigned (R13). -/
abbrev Word := BitVec 32

/-- What the spec calls a *state* `s[0..11]` of the permutation: 12 words, 3 planes of 4 lanes (R9, R15). It is
named `Lanes` here so that `State` can be the machine's. -/
abbrev Lanes := Vector Word 12

/-- A block: 48 bytes (R9, R19). -/
abbrev Block := Vector Byte 48

/-- `ZERO12`, twelve zero words (R15). -/
def zero12 : Lanes := Vector.replicate 12 0

/-- `ZERO48`, 48 zero bytes (R15). -/
def zero48 : Block := Vector.replicate 48 0

end Sys2Proof
end

