-- ==== Sys2Proof/Config.lean ====
section
/-! DEFINITION. What an instance is configured with and the spec leaves as a parameter: the permutation's round
function, its round constants, and the fixed round count (00_scope.md R10, R11; 40_permutation.md R102, R113). -/

namespace Sys2Proof

/-- The parameters of an instance. The permutation `P` itself is not a field: 40_permutation.md R102 says how it is
made of a round function and a table of twelve constants, and `permute` follows that rule. -/
structure Config where
  /-- One round `round(s, c)` with the constant `c` (R102). Its numbers and wiring are not in the spec (R113). -/
  round : Lanes → Word → Lanes
  /-- The table `c[0..11]` of round constants (R102); its values are not in the spec (R113). -/
  constants : Vector Word 12
  /-- `ROUNDS`, the one fixed round count of all internal calls; `ROUNDS <= 12` by its type (R10, R101, R209). -/
  rounds : Fin 13
deriving Inhabited

/-- The configuration of the block that `step` runs. It has no body: whatever is proved of the machine holds for
every round function, every table of constants and every round count up to 12 (DESIGN CHOICE, safe: log entries 1
and 2). -/
opaque Config.deck : Config

/-- The spec's value for `ROUNDS` (R10, 92_eei_decisions.md D7), from general knowledge: `Config.deck` does not assume
it (log entry 2); `publishedConfig` takes it. -/
def Config.defaultRounds : Fin 13 := 6

/-- `LENW`, the width of the byte-count field of the ABSORB and SQUEEZE words (R12). -/
def Config.lenw : Nat := 24

end Sys2Proof
end

