-- ==== Sys2Proof/Syntax.lean ====
section
/-! DEFINITION. The five commands, one constructor per row of spec/opcode_table.json (30_encoding.md R70 to R76). -/

namespace Sys2Proof

/-- A command with its operands. Byte counts, the bit width and the offset are natural numbers, as in the abstract
command (00_scope.md R12, R17; 60_exceptions.md R204); `Instr.wellFormed` says which of them a command word can
spell. The payload of NEW and ABSORB is not part of the word: it comes on `din` (R71). -/
inductive Instr where
  /-- `NEW`: key setup with a key of `klen` bytes (R72, R160). -/
  | new (klen : Nat)
  /-- `ABSORB`: a message chunk of `len` bytes (R73, R162). -/
  | absorb (len : Nat)
  /-- `FINALIZE`: domain separator `ds`, its bit width `w`, output offset `off` (R74, R170). -/
  | finalize (ds : Byte) (w : Nat) (off : Nat)
  /-- `SQUEEZE`: `n` output bytes (R75, R176). -/
  | squeeze (n : Nat)
  /-- `RESTART` (R76, R180). -/
  | restart
deriving DecidableEq, Repr

end Sys2Proof
end

