-- ==== Sys2Proof/WellFormed.lean ====
section
/-! DEFINITION. Which commands a 32-bit command word can spell: each operand fits its field (30_encoding.md R72 to
R76). A well-formed command may still violate a precondition (R81). -/

namespace Sys2Proof

/-- Every operand fits the field that carries it. -/
def Instr.wellFormed : Instr → Bool
  | .new klen => klen < 2 ^ 6
  | .absorb len => len < 2 ^ Config.lenw
  | .finalize _ w off => w < 2 ^ 3 && off < 2 ^ 6
  | .squeeze n => n < 2 ^ Config.lenw
  | .restart => true

end Sys2Proof
end

