-- ==== Sys2Proof/Decode.lean ====
section
/-! DEFINITION. Decoding of command words, total on all 2^32 words (30_encoding.md R78), the names of the two ways
a word is illegal (R80), and the encoder (R71 to R76). -/

namespace Sys2Proof

/-- Why a word is no command (R80). -/
inductive Illegal where
  /-- The opcode is 0x0 or one of 0x6 to 0xF (R79, R80). -/
  | reservedOpcode (op : Nat)
  /-- The opcode is legal and a must-be-zero bit is one (R80). -/
  | reservedBitSet (op : Nat)
deriving DecidableEq, Repr

/-- `bits[hi:lo]` of a command word, as an unsigned number (00_scope.md R13). -/
def bits (c : Word) (hi lo : Nat) : Nat := c.toNat / 2 ^ lo % 2 ^ (hi - lo + 1)

/-- The word has `value` under `mask`. -/
def hasPattern (c mask value : Word) : Bool := c &&& mask == value

/-- The opcode field `bits[31:28]` (R71). -/
def opcodeOf (c : Word) : Nat := bits c 31 28

/-- Which of R80's two reasons makes a word that fits no pattern illegal. -/
def illegalReason (c : Word) : Illegal :=
  if opcodeOf c == 0 || 6 ≤ opcodeOf c then .reservedOpcode (opcodeOf c) else .reservedBitSet (opcodeOf c)

/-- R78: the five patterns, then the operand fields of R77. -/
def decode (c : Word) : Except Illegal Instr :=
  if hasPattern c 0xFFFFFFC0 0x10000000 then .ok (.new (bits c 5 0))
  else if hasPattern c 0xFF000000 0x20000000 then .ok (.absorb (bits c 23 0))
  else if hasPattern c 0xFFFE0000 0x30000000 then
    .ok (.finalize (BitVec.ofNat 8 (bits c 7 0)) (bits c 10 8) (bits c 16 11))
  else if hasPattern c 0xFF000000 0x40000000 then .ok (.squeeze (bits c 23 0))
  else if c == 0x50000000 then .ok .restart
  else .error (illegalReason c)

/-- The command word of the number `w`, of which the low `nbits` bits are given and the rest are 0. A command is one
32-bit word on a channel of words, so there is no byte order to lay out (R71, 20_memory.md R57). -/
def tableWord (nbits w : Nat) : Word := BitVec.ofNat 32 (w % 2 ^ nbits)

/-- The command the decoder reads from an opcode-table word, `none` where it refuses. -/
def decodeTableWord (nbits w : Nat) : Option Instr :=
  match decode (tableWord nbits w) with
  | .ok i => some i
  | .error _ => none

/-- The word that spells a well-formed command: opcode in `bits[31:28]`, operands in their fields, every other bit
zero (R71 to R76). -/
def encode : Instr → Word
  | .new klen => 0x10000000 ||| BitVec.ofNat 32 klen
  | .absorb len => 0x20000000 ||| BitVec.ofNat 32 len
  | .finalize ds w off => 0x30000000 ||| BitVec.ofNat 32 (off * 2 ^ 11) ||| BitVec.ofNat 32 (w * 2 ^ 8) ||| BitVec.ofNat 32 ds.toNat
  | .squeeze n => 0x40000000 ||| BitVec.ofNat 32 n
  | .restart => 0x50000000

end Sys2Proof
end

