-- ==== Sys2Proof/Machine/State.lean ====
section
/-! DEFINITION. The state of the block and of its channels, its values after reset, and the reasons a step of the
model can stop (10_state.md; 20_memory.md R51 to R53; 70_reset_and_hazards.md R230). -/

namespace Sys2Proof.Machine

/-- The mode flag: `Absorbing` or `Finalized` (R27). -/
inductive Mode where
  | absorbing
  | finalized
deriving DecidableEq, Repr

/-- What `fcause` holds: the causes of 60_exceptions.md R201, in the order of their codes 0 to 7. -/
inductive Cause where
  /-- code 0: no fault recorded -/
  | noCause
  /-- code 1, `ILLEGAL_CMD` (R208) -/
  | illegalCmd
  /-- code 2, `NOT_KEYED` (R203) -/
  | notKeyed
  /-- code 3, `KEY_LEN` (R202) -/
  | keyLen
  /-- code 4, `DS_WIDTH` (R204): abstract level only -/
  | dsWidth
  /-- code 5, `FIN_OFFSET` (R205) -/
  | finOffset
  /-- code 6, `ROUNDS` (R209): never recorded by the block -/
  | rounds
  /-- code 7, `BLOCK_LEN` (R210): never recorded by the block -/
  | blockLen
deriving DecidableEq, Repr

/-- The block's architectural state (10_state.md R20 to R32) and the contents of its three channels (20_memory.md
R51 to R53; log entry 4). -/
structure State where
  /-- `imask`, the input mask (R20). -/
  imask : Lanes
  /-- `omask`, the output mask (R21). -/
  omask : Lanes
  /-- `acc`, the accumulator (R22). -/
  acc : Lanes
  /-- `iblk`, the input block buffer (R23). -/
  iblk : Block
  /-- `ioff`, the input write cursor, 0..47 (R24, R28). -/
  ioff : Fin 48
  /-- `oblk`, the output block buffer (R25). -/
  oblk : Block
  /-- `ooff`, the output read cursor, 0..48 (R26, R29). -/
  ooff : Fin 49
  /-- `mode` (R27). -/
  mode : Mode
  /-- `keyed`: a NEW has completed since reset (R32). -/
  keyed : Bool
  /-- `fault`: a precondition violation was detected (R32). -/
  fault : Bool
  /-- `fcause`: the cause of the fault (R32). -/
  fcause : Cause
  /-- `cmd`: the command words the host has sent and the block has not yet taken, oldest first (R51). -/
  cmd : List Word
  /-- `din`: the bytes the host has sent and the block has not yet taken, oldest first (R52). -/
  din : List Byte
  /-- `dout`: the bytes the block has emitted and the host has not yet taken, oldest first (R53). -/
  dout : List Byte
deriving DecidableEq, Repr

/-- The state after reset (R38, R230): everything zero, `Absorbing`, unkeyed, no fault, the channels empty (R54). -/
def State.reset : State where
  imask := zero12
  omask := zero12
  acc := zero12
  iblk := zero48
  ioff := 0
  oblk := zero48
  ooff := 0
  mode := .absorbing
  keyed := false
  fault := false
  fcause := .noCause
  cmd := []
  din := []
  dout := []

/-- Reasons for which the MODEL stops. The block's own faults are not among them: they are states with `fault = 1`
(60_exceptions.md R206), so a fault of the block is a next state. -/
inductive Fault where
  /-- Raised by the meaning of NEW or ABSORB when it is run in a state whose `din` does not hold the payload: such a
  command does not exist (20_memory.md R52, 93_implementation_defined.md U16 "stuck"). `step` never answers it, since
  it waits for the payload. Safe. -/
  | payloadMissing
deriving DecidableEq, Repr

/-- Reasons for which the model has no meaning to run. -/
inductive Refusal where
  /-- An arm of `exec` that has no meaning yet. No arm answers it. Safe. -/
  | notModelled (mnemonic : String)
deriving DecidableEq, Repr

end Sys2Proof.Machine
end

