-- ==== Sys2Proof/Machine/Words.lean ====
section
/-! DEFINITION. The word operators of 00_scope.md R14 that core Lean does not already name, and the plane and lane
view of a twelve-word state (R15). -/

namespace Sys2Proof.Machine

/-- `rotl(a, n)`, rotate left by `n`, `0 <= n <= 31` (R14). -/
def rotl (a : Word) (n : Nat) : Word := (a <<< n) ||| (a >>> (32 - n))

/-- `^` on states, lane-wise (R14). -/
def xor12 (s t : Lanes) : Lanes := Vector.ofFn fun i => s[i] ^^^ t[i]

/-- Lane `x` of plane `y`: `s[4y + x]` (R15). -/
def lane (s : Lanes) (y : Fin 3) (x : Fin 4) : Word := s[4 * y.val + x.val]

/-- The state whose lane `x` of plane `y` is `f y x` (R15). -/
def ofLanes (f : Fin 3 → Fin 4 → Word) : Lanes :=
  Vector.ofFn fun i => f ⟨i.val / 4, by omega⟩ ⟨i.val % 4, by omega⟩

end Sys2Proof.Machine
end

