-- ==== Sys2Proof/Machine/Codec.lean ====
section
/-! DEFINITION. The little-endian codec between blocks and states, and the three paddings (42_block_helpers.md R140
to R145). -/

namespace Sys2Proof.Machine

/-- The word with these four bytes, most significant first: `{b3, b2, b1, b0}` (00_scope.md R13). -/
def wordOfBytes (b3 b2 b1 b0 : Byte) : Word := (b3 ++ b2 ++ b1 ++ b0).cast rfl

/-- `le_decode(b)`: word `i` is `{b[4i+3], b[4i+2], b[4i+1], b[4i]}` (R140). -/
def leDecode (b : Block) : Lanes :=
  Vector.ofFn fun i => wordOfBytes b[4 * i.val + 3] b[4 * i.val + 2] b[4 * i.val + 1] b[4 * i.val]

/-- `le_encode(w)`: byte `4i + j` is bits `8j+7 .. 8j` of word `i` (R141). -/
def leEncode (w : Lanes) : Block :=
  Vector.ofFn fun k => (w[k.val / 4]).extractLsb' (8 * (k.val % 4)) 8

/-- A byte list as a block: the source's "non-48-byte state buffer" is the violation `BLOCK_LEN` (60_exceptions.md
R210). Inside the block every buffer has 48 bytes by its type, so no command meets it. -/
def blockChecked (bs : List Byte) : Except Cause Block :=
  if h : bs.length = 48 then .ok ⟨bs.toArray, by simpa using h⟩ else .error .blockLen

/-- `pad_key(key)`: the key, one `0x01` byte, zeros (R143; NEW has checked `len(key) < 48`). -/
def padKey (key : List Byte) : Block :=
  Vector.ofFn fun i =>
    if i.val < key.length then key.getD i.val 0 else if i.val = key.length then 0x01 else 0x00

/-- `pad_byte(ds, w)`: `(1 << w) | (ds & ((1 << w) - 1))` (R144; FINALIZE has checked `w <= 7`). -/
def padByte (ds : Byte) (w : Nat) : Byte := (1#8 <<< w) ||| (ds &&& ((1#8 <<< w) - 1#8))

/-- `pad_block`: the buffered tail, the padding byte at the cursor, zeros above it (R145). -/
def padBlock (iblk : Block) (ioff : Fin 48) (pb : Byte) : Block :=
  Vector.ofFn fun i => if i.val < ioff.val then iblk[i] else if i.val = ioff.val then pb else 0x00

end Sys2Proof.Machine
end

