-- ==== Sys2Proof/Machine/Permutation.lean ====
section
/-! DEFINITION. The permutation's contract (40_permutation.md R100 to R106) over the parameters of `Config`, and the
three steps of a round that the source's outline determines (R107 to R109). -/

namespace Sys2Proof.Machine

/-- `permute(s, R)`: the LAST `R` of the twelve rounds, with `c[12-R], .., c[11]` in that order (R100, R102). -/
def permute (c : Config) (s : Lanes) (R : Fin 13) : Lanes :=
  (c.constants.toList.drop (12 - R.val)).foldl c.round s

/-- `permute` on any round count: `R > 12` is the contract violation `ROUNDS` (R101, 60_exceptions.md R209). The
block only ever calls it with `ROUNDS <= 12`. -/
def permuteChecked (c : Config) (s : Lanes) (R : Nat) : Except Cause Lanes :=
  if h : R < 13 then .ok (permute c s ⟨R, h⟩) else .error .rounds

/-- `P(s) = permute(s, ROUNDS)` (R105). -/
def P (c : Config) (s : Lanes) : Lanes := permute c s c.rounds

/-- R107: the parity plane `p[x] = s[x] ^ s[4+x] ^ s[8+x]`. -/
def parity (s : Lanes) (x : Fin 4) : Word := lane s 0 x ^^^ lane s 1 x ^^^ lane s 2 x

/-- R108: `e[x] = rotl(p[x'], r1) ^ rotl(p[x'], r2)`, the plane moved by `d` lane positions (`x' = x - d`). The two
offsets and the move are not in the source, so they are arguments. -/
def diffusion (r1 r2 : Nat) (d : Fin 4) (p : Fin 4 → Word) (x : Fin 4) : Word :=
  rotl (p (x - d)) r1 ^^^ rotl (p (x - d)) r2

/-- R109: `e` into all three planes, the round constant into lane 0 of plane 0 only. -/
def addDiffusion (e : Fin 4 → Word) (k : Word) (s : Lanes) : Lanes :=
  ofLanes fun y x => lane s y x ^^^ e x ^^^ (if y = 0 ∧ x = 0 then k else 0)

end Sys2Proof.Machine
end

