-- ==== Sys2Proof/Machine/Rolling.lean ====
section
/-! DEFINITION. The mask-rolling functions (41_rolling.md R120 to R124). -/

namespace Sys2Proof.Machine

/-- The shape both rolls share (R121, R123): old plane 1 becomes plane 0, old plane 2 becomes plane 1, and old plane
0, its lane 0 replaced by `x` and its lanes moved by 3, becomes plane 2, so that `x` is word 11. -/
def rollShape (s : Lanes) (x : Word) : Lanes :=
  #v[s[4], s[5], s[6], s[7], s[8], s[9], s[10], s[11], s[1], s[2], s[3], x]

/-- `roll_linear(s)` (R122). -/
def rollLinear (s : Lanes) : Lanes := rollShape s (s[0] ^^^ (s[0] <<< 13) ^^^ rotl s[4] 3)

/-- `roll_nonlinear(s)` (R124). -/
def rollNonlinear (s : Lanes) : Lanes :=
  rollShape s ((s[4] &&& s[8]) ^^^ rotl s[0] 5 ^^^ rotl s[4] 13 ^^^ 0x00000007)

end Sys2Proof.Machine
end

