-- ==== Sys2Proof/Machine/Ops.lean ====
section
/-! DEFINITION. The named operations of the commands: entering a fault and leaving it, the channels (20_memory.md
R52, R53), the per-block steps MPA and GEN (42_block_helpers.md R146, R148) and the register writes the commands
are made of. -/

namespace Sys2Proof.Machine

/-- `raise Fault(cause)`: `fault <- 1`, `fcause <- cause`, and nothing else (60_exceptions.md R206). This is the one
way the block takes an exception. -/
def State.raiseFault (c : Cause) (s : State) : State := { s with fault := true, fcause := c }

/-- Asserting the reset input: the only return from a fault (60_exceptions.md R214; 70_reset_and_hazards.md R230). It
overwrites every piece of state and empties the channels, whatever they held. -/
def State.assertReset (_ : State) : State := State.reset

/-- The block takes the first word of `cmd` (20_memory.md R51). -/
def State.takeCommand (s : State) : State := { s with cmd := s.cmd.tail }

/-- `DinRead(n)` leaves `din` without its first `n` bytes (R52). -/
def State.dropDin (n : Nat) (s : State) : State := { s with din := s.din.drop n }

/-- `DoutWrite(bs)` appends to `dout` (R53). -/
def State.doutWrite (bs : List Byte) (s : State) : State := { s with dout := s.dout ++ bs }

/-- `iblk[ioff] <- b` (20_memory.md R66). -/
def State.storeByte (b : Byte) (s : State) : State := { s with iblk := s.iblk.set s.ioff.val b }

/-- FINALIZE's padding of the residual block in `iblk` (R145). -/
def State.padInput (pb : Byte) (s : State) : State := { s with iblk := padBlock s.iblk s.ioff pb }

/-- `iblk <- ZERO48; ioff <- 0` (R170). -/
def State.clearInput (s : State) : State := { s with iblk := zero48, ioff := 0 }

/-- The MPA step: `acc <- acc ^ P(le_decode(iblk) ^ imask)`; it writes `acc` only and does not roll (R146, R147). -/
def State.mpa (c : Config) (s : State) : State :=
  { s with acc := xor12 s.acc (P c (xor12 (leDecode s.iblk) s.imask)) }

/-- `imask <- roll_linear(imask)` (41_rolling.md R120, R125). -/
def State.rollImask (s : State) : State := { s with imask := rollLinear s.imask }

/-- The GEN step: `oblk <- le_encode(P(omask) ^ imask)`; it writes `oblk` only (R148). -/
def State.gen (c : Config) (s : State) : State :=
  { s with oblk := leEncode (xor12 (P c s.omask) s.imask) }

/-- `omask <- roll_nonlinear(omask)` (R120, R125). -/
def State.rollOmask (s : State) : State := { s with omask := rollNonlinear s.omask }

/-- `ooff <- k`. -/
def State.setOoff (k : Fin 49) (s : State) : State := { s with ooff := k }

/-- `mode <- m`. -/
def State.setMode (m : Mode) (s : State) : State := { s with mode := m }

/-- The output mask of a cycle, `omask <- P(acc)`: a copy of `acc` is permuted (R170). -/
def State.deriveOmask (c : Config) (s : State) : State := { s with omask := P c s.acc }

/-- The next output block: GEN, then the cursor, then the roll, in the order both callers use (R148). -/
def State.nextBlock (c : Config) (k : Fin 49) (s : State) : State := ((s.gen c).setOoff k).rollOmask

end Sys2Proof.Machine
end

