-- ==== Sys2Proof/Machine/Operands.lean ====
section
/-! DEFINITION. How a command is examined before anything happens (60_exceptions.md R211, 43_deck_commands.md R159)
and how its payload is taken from `din` (20_memory.md R52, R67). -/

namespace Sys2Proof.Machine

/-- What the checks of R211, lines 1 to 6, conclude about a command. -/
inductive Verdict where
  /-- line 1: `fault = 1`, the command is refused -/
  | refuse
  /-- lines 2 to 6: the command raises this fault -/
  | raise (c : Cause)
  /-- no check failed: lines 7 and 8, the command's silent no-op or its effect -/
  | pass
deriving DecidableEq, Repr

/-- A further check, made only where every check before it passed. -/
def Verdict.check (v : Verdict) (bad : Bool) (c : Cause) : Verdict :=
  match v with
  | .pass => if bad then .raise c else .pass
  | .raise c' => .raise c'
  | .refuse => .refuse

/-- R159's prologue but for the illegal word, which never reaches a meaning: refused while `fault = 1`, then
`NOT_KEYED` unless the command is NEW. -/
def prologue (isNew : Bool) (s : State) : Verdict :=
  if s.fault then .refuse else Verdict.pass.check (!isNew && !s.keyed) .notKeyed

/-- The checks of a command, in the order of R211; `klen`, `w`, `off` are the operands as numbers. -/
def examine (i : Instr) (s : State) : Verdict :=
  match i with
  | .new klen => (prologue true s).check (48 ≤ klen) .keyLen
  | .absorb _ => prologue false s
  | .finalize _ w off => ((prologue false s).check (7 < w) .dsWidth).check (48 < off) .finOffset
  | .squeeze _ => prologue false s
  | .restart => prologue false s

/-- Acts on a verdict: a refused command changes nothing (R207), a faulting one records its cause (R206), and one
that passed goes on. -/
def settle {α : Type} (v : Verdict) (s : State) (done : State → α) (go : State → α) : α :=
  match v with
  | .refuse => done s
  | .raise c => done (s.raiseFault c)
  | .pass => go s

/-- The number of payload bytes the command word announces (R71). -/
def payloadLen : Instr → Nat
  | .new klen => klen
  | .absorb len => len
  | .finalize _ _ _ => 0
  | .squeeze _ => 0
  | .restart => 0

/-- The number of `din` bytes the command takes in this state: its payload where no check stops it, also when it is
a silent no-op, and none where it faults or is refused (R67, R78). -/
def payloadNeed (i : Instr) (s : State) : Nat :=
  match examine i s with
  | .pass => payloadLen i
  | .raise _ => 0
  | .refuse => 0

/-- The bytes the command will take are on `din` (R52). -/
def payloadReady (i : Instr) (s : State) : Bool := payloadNeed i s ≤ s.din.length

/-- Takes `n` payload bytes and goes on with them: `DinRead(n)` (R52). Without them there is no such command. -/
def withPayload (n : Nat) (s : State) (go : List Byte → State → State) : Host.Outcome State Fault Refusal :=
  if n ≤ s.din.length then .next (go (s.din.take n) (s.dropDin n)) else .fault .payloadMissing

/-- An illegal word (30_encoding.md R80, 60_exceptions.md R208): refused while `fault = 1`, else `ILLEGAL_CMD`,
whatever `keyed` is (R211). -/
def illegalCommand (s : State) : State :=
  settle ((if s.fault then Verdict.refuse else .pass).check true .illegalCmd) s id id

end Sys2Proof.Machine
end

