-- ==== Sys2Proof/Machine/Absorb.lean ====
section
/-! DEFINITION. ABSORB (43_deck_commands.md R161, R162). -/

namespace Sys2Proof.Machine

/-- One byte of R162's loop: store it at `iblk[ioff]`, advance `ioff`, and when it reaches 48 fold the block, roll
`imask` once and set `ioff` to 0. The folded bytes stay in `iblk` (D12). -/
def absorbByte (c : Config) (s : State) (b : Byte) : State :=
  if h : s.ioff.val + 1 < 48 then { s.storeByte b with ioff := ⟨s.ioff.val + 1, h⟩ }
  else { ((s.storeByte b).mpa c).rollImask with ioff := 0 }

/-- The effect of ABSORB on a message: nothing in `Finalized` mode or for the empty message (R161), else one byte
after the other (R162). -/
def absorbEffect (c : Config) (message : List Byte) (s : State) : State :=
  if s.mode = .finalized ∨ message = [] then s else message.foldl (absorbByte c) s

/-- ABSORB under a configuration. The payload is taken from `din` also when the command is a silent no-op (R67). -/
def absorbAt (c : Config) (len : Nat) (s : State) : Host.Outcome State Fault Refusal :=
  settle (examine (.absorb len) s) s .next fun s => withPayload len s (absorbEffect c)

/-- ABSORB. -/
def execAbsorb (len : Nat) (s : State) : Host.Outcome State Fault Refusal := absorbAt Config.deck len s

end Sys2Proof.Machine
end

