-- ==== Sys2Proof/Machine/Finalize.lean ====
section
/-! DEFINITION. FINALIZE (43_deck_commands.md R170, R171). -/

namespace Sys2Proof.Machine

/-- R170's effect, line by line: pad, fold, roll `imask` twice, clear the input side, `Finalized`, derive the output
mask, generate the first block with the cursor at `off`, roll the output mask. -/
def finalizeCycle (c : Config) (ds : Byte) (w : Nat) (off : Fin 49) (s : State) : State :=
  let folded := (s.padInput (padByte ds w)).mpa c
  let rolled := folded.rollImask.rollImask
  let finalized := rolled.clearInput.setMode .finalized
  (finalized.deriveOmask c).nextBlock c off

/-- The effect of FINALIZE with legal arguments: a silent no-op in `Finalized` mode (R171). -/
def finalizeEffect (c : Config) (ds : Byte) (w : Nat) (off : Fin 49) (s : State) : State :=
  if s.mode = .finalized then s else finalizeCycle c ds w off s

/-- FINALIZE under a configuration. The effect runs only where `off <= 48`, so the conversion to a cursor is exact. -/
def finalizeAt (c : Config) (ds : Byte) (w off : Nat) (s : State) : Host.Outcome State Fault Refusal :=
  settle (examine (.finalize ds w off) s) s .next fun s => .next (finalizeEffect c ds w (Fin.ofNat 49 off) s)

/-- FINALIZE. -/
def execFinalize (ds : Byte) (w off : Nat) (s : State) : Host.Outcome State Fault Refusal :=
  finalizeAt Config.deck ds w off s

end Sys2Proof.Machine
end

