-- ==== Sys2Proof/Machine/Keying.lean ====
section
/-! DEFINITION. NEW: key setup (43_deck_commands.md R160). -/

namespace Sys2Proof.Machine

/-- The effect of NEW: `imask` from the padded key, everything else as after reset but for `keyed` (R160, R39). It
does not look at `mode`, and it overwrites every piece of the block's state; `fault` and `fcause` are clear already,
because a faulted block refuses NEW. -/
def newEffect (c : Config) (key : List Byte) (s : State) : State :=
  { s with
    imask := P c (leDecode (padKey key))
    acc := zero12
    omask := zero12
    iblk := zero48
    ioff := 0
    oblk := zero48
    ooff := 0
    mode := .absorbing
    keyed := true }

/-- NEW under a configuration: the checks, then the key from `din`, then the effect (R160, R67). -/
def newAt (c : Config) (klen : Nat) (s : State) : Host.Outcome State Fault Refusal :=
  settle (examine (.new klen) s) s .next fun s => withPayload klen s (newEffect c)

/-- NEW. -/
def execNew (klen : Nat) (s : State) : Host.Outcome State Fault Refusal := newAt Config.deck klen s

end Sys2Proof.Machine
end

