-- ==== Sys2Proof/Machine/Restart.lean ====
section
/-! DEFINITION. RESTART (43_deck_commands.md R180). -/

namespace Sys2Proof.Machine

/-- The effect of RESTART: nothing unless `Finalized`; there the output side is zeroed and the mode goes back to
`Absorbing`; `acc` and `imask` stay (R180). -/
def restartEffect (s : State) : State :=
  if s.mode = .finalized then { s with omask := zero12, oblk := zero48, ooff := 0, mode := .absorbing } else s

/-- RESTART. It calls no `P`, so it does not depend on the configuration. -/
def execRestart (s : State) : Host.Outcome State Fault Refusal :=
  settle (examine .restart s) s .next fun s => .next (restartEffect s)

end Sys2Proof.Machine
end

