-- ==== Sys2Proof/Machine/Squeeze.lean ====
section
/-! DEFINITION. SQUEEZE (43_deck_commands.md R174, R176), eager as R176. -/

namespace Sys2Proof.Machine

/-- Emits byte `k` of the current output block and advances the cursor; when it reaches 48 the next block is
generated at once (R176). -/
def emitAt (c : Config) (k : Fin 48) (s : State) : State :=
  if k.val + 1 = 48 then ((s.doutWrite [s.oblk[k]]).setOoff k.succ).nextBlock c 0
  else (s.doutWrite [s.oblk[k]]).setOoff k.succ

/-- One byte of R176's loop. At `ooff = 48`, which only a FINALIZE with `off = 48` leaves, the loop copies nothing
and generates first (R177). -/
def squeezeByte (c : Config) (s : State) : State :=
  if h : s.ooff.val < 48 then emitAt c ⟨s.ooff.val, h⟩ s else emitAt c 0 (s.nextBlock c 0)

/-- `n` bytes of output (R176). -/
def squeezeLoop (c : Config) : Nat → State → State
  | 0, s => s
  | n + 1, s => squeezeLoop c n (squeezeByte c s)

/-- The effect of SQUEEZE: nothing unless `Finalized` (R174). -/
def squeezeEffect (c : Config) (n : Nat) (s : State) : State :=
  if s.mode = .finalized then squeezeLoop c n s else s

/-- SQUEEZE under a configuration. -/
def squeezeAt (c : Config) (n : Nat) (s : State) : Host.Outcome State Fault Refusal :=
  settle (examine (.squeeze n) s) s .next fun s => .next (squeezeEffect c n s)

/-- SQUEEZE. -/
def execSqueeze (n : Nat) (s : State) : Host.Outcome State Fault Refusal := squeezeAt Config.deck n s

end Sys2Proof.Machine
end

