-- ==== Sys2Proof/Machine/Dispatch.lean ====
section
/-! DEFINITION. The dispatch: one arm per command of spec/opcode_table.json. -/

namespace Sys2Proof.Machine

/-- The meaning of a command. -/
def exec (i : Instr) (s : State) : Host.Outcome State Fault Refusal :=
  match i with
  | .new klen => Sys2Proof.Machine.execNew klen s
  | .absorb len => Sys2Proof.Machine.execAbsorb len s
  | .finalize ds w off => Sys2Proof.Machine.execFinalize ds w off s
  | .squeeze n => Sys2Proof.Machine.execSqueeze n s
  | .restart => Sys2Proof.Machine.execRestart s

end Sys2Proof.Machine
end

