-- ==== Sys2Proof/Machine/Step.lean ====
section
/-! DEFINITION. One step: the block takes the next command word and runs it to completion (20_memory.md R51,
30_encoding.md R78). -/

namespace Sys2Proof.Machine

/-- One step. With no word on `cmd` the block holds its state (60_exceptions.md R220). A legal word whose payload is
not yet on `din` stays on `cmd` and nothing happens (93_implementation_defined.md U16); otherwise it is taken and its
command runs. An illegal word is taken and faults (R80), or is refused on a faulted block (R211). -/
def step (s : State) : Host.Outcome State Fault Refusal :=
  match s.cmd with
  | [] => .next s
  | c :: _ =>
    match decode c with
    | .error _ => .next (illegalCommand s.takeCommand)
    | .ok i => if payloadReady i s then exec i s.takeCommand else .next s

/-- The zero bytes `din` lacks for the command's payload: the payload belongs to the command (00_scope.md R17), as an
operand word that the table gives no bits would. -/
def missingPayload (c : Word) (s : State) : List Byte :=
  match decode c with
  | .ok i => List.replicate (payloadNeed i s - s.din.length) 0
  | .error _ => []

/-- `s` with the command whose table bits are `w` as the next word on `cmd`, and with a payload for it on `din` if it
takes one and `din` is too short (log entry 7). -/
def State.withFetchWord (s : State) (nbits w : Nat) : State :=
  { s with cmd := tableWord nbits w :: s.cmd, din := s.din ++ missingPayload (tableWord nbits w) s }

end Sys2Proof.Machine
end

