-- ==== Sys2Proof/Machine/Command.lean ====
section
/-! DEFINITION. The abstract command level (00_scope.md R17, 30_encoding.md R70): commands that carry their key or
message as an argument, and what the block does with one. It takes nothing from `din`. -/

namespace Sys2Proof.Machine

/-- The five operations with the source's arguments (R70). -/
inductive Command where
  | new (key : List Byte)
  | absorb (message : List Byte)
  | finalize (ds : Byte) (w : Nat) (off : Nat)
  | squeeze (n : Nat)
  | restart
deriving DecidableEq, Repr

/-- The command's operands as the command word has them: a byte list is announced by its length (R71). -/
def Command.operands : Command → Instr
  | .new key => .new key.length
  | .absorb message => .absorb message.length
  | .finalize ds w off => .finalize ds w off
  | .squeeze n => .squeeze n
  | .restart => .restart

/-- The bytes the command takes from `din`, in order (R71). -/
def Command.payload : Command → List Byte
  | .new key => key
  | .absorb message => message
  | .finalize _ _ _ => []
  | .squeeze _ => []
  | .restart => []

/-- The command that a word's operands and its payload make (R78). -/
def Command.assemble (payload : List Byte) : Instr → Command
  | .new _ => .new payload
  | .absorb _ => .absorb payload
  | .finalize ds w off => .finalize ds w off
  | .squeeze n => .squeeze n
  | .restart => .restart

/-- The effect of a command that passed every check, its silent no-op among it (R211 lines 7 and 8). -/
def Command.effect (c : Config) (x : Command) (s : State) : State :=
  match x with
  | .new key => newEffect c key s
  | .absorb message => absorbEffect c message s
  | .finalize ds w off => finalizeEffect c ds w (Fin.ofNat 49 off) s
  | .squeeze n => squeezeEffect c n s
  | .restart => restartEffect s

/-- Runs an abstract command: the checks of R211, then its effect. It always completes. -/
def Command.run (c : Config) (x : Command) (s : State) : State :=
  settle (examine x.operands s) s id (x.effect c)

end Sys2Proof.Machine
end

