-- ==== Sys2Proof/Machine/Text.lean ====
section
/-! DEFINITION. The text form of commands (30_encoding.md R82): one command per line, mnemonic in capitals, operands
separated by commas, byte strings as hex pairs, `-` for the empty one, numbers decimal or `0x` hex. There are no
pseudo-commands (R83). Text is lists of characters here, so that the kernel can evaluate it. -/

namespace Sys2Proof.Machine

/-- The hex digit of a number below 16, lower case. -/
def hexDigit (n : Nat) : Char := if n < 10 then Char.ofNat (48 + n) else Char.ofNat (87 + n)

/-- The number of a hex digit, in either case. -/
def hexValue (c : Char) : Option Nat :=
  if 48 ≤ c.toNat ∧ c.toNat ≤ 57 then some (c.toNat - 48)
  else if 97 ≤ c.toNat ∧ c.toNat ≤ 102 then some (c.toNat - 87)
  else if 65 ≤ c.toNat ∧ c.toNat ≤ 70 then some (c.toNat - 55)
  else none

/-- Hex pairs, first byte first. -/
def hexPairs : List Byte → List Char
  | [] => []
  | b :: bs => hexDigit (b.toNat / 16) :: hexDigit (b.toNat % 16) :: hexPairs bs

/-- A byte string: hex pairs with no spaces, the empty string as `-`. -/
def bytesText (bs : List Byte) : List Char := if bs = [] then ['-'] else hexPairs bs

/-- The text of a command, numbers in decimal. -/
def Command.text : Command → List Char
  | .new key => ['N', 'E', 'W', ' '] ++ bytesText key
  | .absorb message => ['A', 'B', 'S', 'O', 'R', 'B', ' '] ++ bytesText message
  | .finalize ds w off => ['F', 'I', 'N', 'A', 'L', 'I', 'Z', 'E', ' '] ++ Nat.toDigits 10 ds.toNat ++ [',', ' '] ++
      Nat.toDigits 10 w ++ [',', ' '] ++ Nat.toDigits 10 off
  | .squeeze n => ['S', 'Q', 'U', 'E', 'E', 'Z', 'E', ' '] ++ Nat.toDigits 10 n
  | .restart => ['R', 'E', 'S', 'T', 'A', 'R', 'T']

/-- Reads hex pairs. -/
def readPairs : List Char → Option (List Byte)
  | [] => some []
  | [_] => none
  | hi :: lo :: rest =>
    match hexValue hi, hexValue lo, readPairs rest with
    | some h, some l, some bs => some (BitVec.ofNat 8 (16 * h + l) :: bs)
    | _, _, _ => none

/-- Reads a byte string: `-` is the empty one, and no text at all is none. -/
def readBytes (t : List Char) : Option (List Byte) :=
  if t = ['-'] then some [] else if t = [] then none else readPairs t

/-- Reads digits in a base after the number read so far. -/
def readDigits (base : Nat) : List Char → Nat → Option Nat
  | [], n => some n
  | c :: t, n =>
    match hexValue c with
    | some d => if d < base then readDigits base t (base * n + d) else none
    | none => none

/-- Reads a number: decimal, or hex after `0x`. -/
def readNumber : List Char → Option Nat
  | [] => none
  | '0' :: 'x' :: c :: t => readDigits 16 (c :: t) 0
  | t => readDigits 10 t 0

/-- Splits at every `sep`. -/
def splitAtChar (sep : Char) : List Char → List (List Char)
  | [] => [[]]
  | c :: t =>
    if c = sep then [] :: splitAtChar sep t
    else
      match splitAtChar sep t with
      | [] => [[c]]
      | f :: fs => (c :: f) :: fs

/-- Without the spaces at both ends. -/
def trimSpaces (t : List Char) : List Char :=
  ((t.dropWhile (· == ' ')).reverse.dropWhile (· == ' ')).reverse

/-- The mnemonic of a line: everything before its first space. -/
def lineMnemonic (t : List Char) : List Char := t.takeWhile (· != ' ')

/-- The operands of a line: what follows the mnemonic, split at commas. -/
def lineOperands (t : List Char) : List (List Char) :=
  match trimSpaces (t.dropWhile (· != ' ')) with
  | [] => []
  | c :: r => (splitAtChar ',' (c :: r)).map trimSpaces

/-- Reads a line of R82's text form. A domain separator is a byte; a width or an offset may be any number, since the
text spells abstract commands (60_exceptions.md R204). -/
def readCommand (line : List Char) : Option Command :=
  match lineMnemonic (trimSpaces line), lineOperands (trimSpaces line) with
  | ['N', 'E', 'W'], [k] => (readBytes k).map Command.new
  | ['A', 'B', 'S', 'O', 'R', 'B'], [m] => (readBytes m).map Command.absorb
  | ['F', 'I', 'N', 'A', 'L', 'I', 'Z', 'E'], [d, w, o] =>
    match readNumber d, readNumber w, readNumber o with
    | some ds, some width, some off => if ds < 256 then some (.finalize (BitVec.ofNat 8 ds) width off) else none
    | _, _, _ => none
  | ['S', 'Q', 'U', 'E', 'E', 'Z', 'E'], [n] => (readNumber n).map Command.squeeze
  | ['R', 'E', 'S', 'T', 'A', 'R', 'T'], [] => some .restart
  | _, _ => none

end Sys2Proof.Machine
end

