-- ==== Sys2Proof/Machine/Flags.lean ====
section
/-! DEFINITION. The status view: the codes of the causes (60_exceptions.md R201) and the 8-bit read-only `STATUS`
(10_state.md R34). -/

namespace Sys2Proof.Machine

/-- The 3-bit code of a cause (R201). -/
def Cause.code : Cause → BitVec 3
  | .noCause => 0
  | .illegalCmd => 1
  | .notKeyed => 2
  | .keyLen => 3
  | .dsWidth => 4
  | .finOffset => 5
  | .rounds => 6
  | .blockLen => 7

/-- The mode bit of the status view: `Absorbing = 0`, `Finalized = 1` (R27, R34). -/
def Mode.bit : Mode → BitVec 1
  | .absorbing => 0
  | .finalized => 1

/-- `STATUS = {00, fcause[2:0], fault, keyed, mode}` (R34). Reading it has no effect (20_memory.md R55). -/
def State.status (s : State) : BitVec 8 :=
  0#2 ++ s.fcause.code ++ BitVec.ofBool s.fault ++ BitVec.ofBool s.keyed ++ s.mode.bit

end Sys2Proof.Machine
end

