-- ==== Sys2Proof/Machine/HostPort.lean ====
section
/-! DEFINITION. What the host can do between commands: the reset input, the channels and their order (20_memory.md
R51 to R54; 70_reset_and_hazards.md R230, R231). Reading `STATUS` is `State.status` (R55). -/

namespace Sys2Proof.Machine

/-- An act of the host, between two commands (R231). -/
inductive HostEvent where
  /-- asserts the reset input (R54, R230) -/
  | reset
  /-- sends a command word on `cmd` (R51) -/
  | send (c : Word)
  /-- sends bytes on `din` (R52) -/
  | feed (bs : List Byte)
  /-- takes the next `n` bytes from `dout`, or all there are (R53) -/
  | collect (n : Nat)
deriving DecidableEq, Repr

/-- The state after an act of the host. None but reset touches the block's own state. -/
def State.host (e : HostEvent) (s : State) : State :=
  match e with
  | .reset => s.assertReset
  | .send c => { s with cmd := s.cmd ++ [c] }
  | .feed bs => { s with din := s.din ++ bs }
  | .collect n => { s with dout := s.dout.drop n }

/-- The bytes the host gets when it takes `n` bytes from `dout`, in the order they were written (R53). -/
def State.collected (n : Nat) (s : State) : List Byte := s.dout.take n

end Sys2Proof.Machine
end

