-- ==== Sys2Proof/Machine/Instances.lean ====
section
/-! DEFINITION. Several blocks side by side (60_exceptions.md R222): each has its own state and channels, and they
share only the configuration. -/

namespace Sys2Proof.Machine

/-- Instance `k` of a bank of blocks makes one step; an instance that does not exist makes none. -/
def stepInstance (k : Nat) (bank : List State) : Host.Outcome (List State) Fault Refusal :=
  match bank[k]? with
  | none => .next bank
  | some s =>
    match step s with
    | .next t => .next (bank.set k t)
    | .fault r => .fault r
    | .refused r => .refused r

end Sys2Proof.Machine
end

