-- ==== Sys2Proof/Safety.lean ====
section
/-! DEFINITION. The terms claims about the block are made in: legal arguments, silent no-ops, sequences of commands,
the closed forms of a cycle, the invariant of the state, and the states a host can bring the block to. -/

namespace Sys2Proof.Machine

/-- The command's arguments meet its preconditions (43_deck_commands.md R160, R171). -/
def legalArgs : Instr → Bool
  | .new klen => klen < 48
  | .absorb _ => true
  | .finalize _ w off => w ≤ 7 && off ≤ 48
  | .squeeze _ => true
  | .restart => true

/-- The silent no-ops of a keyed, unfaulted block, the list of 60_exceptions.md R212. -/
def silentNoOp (i : Instr) (s : State) : Bool :=
  match i with
  | .new _ => false
  | .absorb len => s.mode == .finalized || len == 0
  | .finalize _ _ _ => s.mode == .finalized
  | .squeeze n => s.mode == .absorbing || n == 0
  | .restart => s.mode == .absorbing

/-- The mode after a command on a keyed, unfaulted block with legal arguments: the table of 43_deck_commands.md
R186. -/
def modeAfter (i : Instr) (m : Mode) : Mode :=
  match i with
  | .new _ => .absorbing
  | .absorb _ => m
  | .finalize _ _ _ => .finalized
  | .squeeze _ => m
  | .restart => .absorbing

/-- How many bytes a command emits on a keyed, unfaulted block with legal arguments (R186): only an effective SQUEEZE
emits. -/
def emitted (i : Instr) (s : State) : Nat :=
  match i with
  | .new _ => 0
  | .absorb _ => 0
  | .finalize _ _ _ => 0
  | .squeeze n => if s.mode = .finalized then n else 0
  | .restart => 0

/-- The commands one after the other, stopping where one stops. -/
def runAll : List Instr → State → Host.Outcome State Fault Refusal
  | [], s => .next s
  | i :: rest, s =>
    match exec i s with
    | .next t => runAll rest t
    | .fault r => .fault r
    | .refused r => .refused r

/-- Block `j` of a byte list: its bytes `48j .. 48j+47` (R163, R190), zeros past the end. -/
def blockAt (bs : List Byte) (j : Nat) : Block := Vector.ofFn fun k => bs.getD (48 * j + k.val) 0

/-- The accumulator after the first `n` blocks of `bs`, block `j` masked with the `j`-th linear roll of `m`, from the
accumulator `a` (R163, R190). -/
def foldBlocks (c : Config) (m a : Lanes) (bs : List Byte) : Nat → Lanes
  | 0 => a
  | n + 1 => xor12 (foldBlocks c m a bs n) (P c (xor12 (leDecode (blockAt bs n)) (rollLinear^[n] m)))

/-- Output block `Z_j` of a cycle with `y = P(a1)` and final input mask `m1`: `E(P(rn^j(y)) ^ m1)` (R191). -/
def outputBlock (c : Config) (y m1 : Lanes) (j : Nat) : Block :=
  leEncode (xor12 (P c (rollNonlinear^[j] y)) m1)

/-- Byte `p` of the output stream `S = Z_0 || Z_1 || ..` (R191). -/
def streamByte (c : Config) (y m1 : Lanes) (p : Nat) : Byte := (outputBlock c y m1 (p / 48))[p % 48]

/-- Output block `j` counted from the state's current block: block 0 is `oblk`, block `j + 1` is made from the `j`-th
nonlinear roll of `omask` (R176, R191). -/
def upcomingBlock (c : Config) (s : State) : Nat → Block
  | 0 => s.oblk
  | j + 1 => outputBlock c s.omask s.imask j

/-- R176's `while` loop as it is written: `fuel` bounds the iterations and `rem` bytes remain. Every iteration but
one that starts at `ooff = 48` copies a byte, so `rem + 1` iterations are enough. -/
def squeezeWhile (c : Config) : Nat → Nat → State → State
  | 0, _, s => s
  | fuel + 1, rem, s =>
    if rem = 0 then s
    else
      let take := min (48 - s.ooff.val) rem
      let copied := (s.doutWrite ((s.oblk.toList.drop s.ooff.val).take take)).setOoff (Fin.ofNat 49 (s.ooff.val + take))
      if copied.ooff.val = 48 then squeezeWhile c fuel (rem - take) (((copied.gen c).setOoff 0).rollOmask)
      else squeezeWhile c fuel (rem - take) copied

/-- The two states differ at most in the bytes of `iblk` at index `ioff` and above, which are never read before they
are overwritten (10_state.md R23). -/
def agreeBelowCursor (s t : State) : Prop :=
  t = { s with iblk := t.iblk } ∧ ∀ k : Fin 48, k < s.ioff → s.iblk[k] = t.iblk[k]

/-- What holds of the block between commands (10_state.md R30, R32, R38; 60_exceptions.md R201, R204, R209, R210).
The ranges of the cursors (R28, R29) hold by their types. -/
structure BlockInv (s : State) : Prop where
  /-- `fcause` is 0 exactly when `fault = 0` (R32). -/
  causeIffFault : s.fcause = .noCause ↔ s.fault = false
  /-- Codes 4, 6 and 7 are never recorded by commands that came as words (R204, R209, R210). -/
  causeSeen : s.fcause ≠ .dsWidth ∧ s.fcause ≠ .rounds ∧ s.fcause ≠ .blockLen
  /-- An unkeyed block holds its reset values (R38: every command but NEW faults). -/
  unkeyedBlank : s.keyed = false →
    s.imask = zero12 ∧ s.acc = zero12 ∧ s.iblk = zero48 ∧ s.ioff = 0 ∧ s.mode = .absorbing
  /-- While `Absorbing` the output side is zero (R30). -/
  absorbingOutput : s.mode = .absorbing → s.omask = zero12 ∧ s.oblk = zero48 ∧ s.ooff = 0
  /-- While `Finalized` the input buffer is empty (R30). -/
  finalizedInput : s.mode = .finalized → s.iblk = zero48 ∧ s.ioff = 0
  /-- While `Finalized` the current block was generated from the mask that `omask` is the next roll of (R191). -/
  finalizedOutput : s.mode = .finalized →
    ∃ y : Lanes, s.oblk = leEncode (xor12 (P Config.deck y) s.imask) ∧ s.omask = rollNonlinear y

/-- The states the block and its host can reach: from reset, by steps of the block and acts of the host between
them. -/
inductive Reachable : State → Prop where
  | reset : Reachable State.reset
  | step {s t : State} (h : Reachable s) (hs : step s = .next t) : Reachable t
  | host {s : State} (h : Reachable s) (e : HostEvent) : Reachable (s.host e)

end Sys2Proof.Machine
end

