-- ==== Sys2Proof/Certificates/Slice0/Obligations.lean ====
section
/-! DEFINITION. The statements about the deck-function block, from the numbered rules of spec/. -/

open Sys2Proof Sys2Proof.Machine

/-! ## Encoding (30_encoding.md) -/

/-- Words written out in R84 and the opcode table decode as they say. The spec marks R84's list as derived from R72 to
R80. -/
def Obligations.SpecWordsDecode : Prop :=
  [0x10000010, 0x10000030, 0x20000005, 0x30000203, 0x30018000, 0x300107FF, 0x40000020, 0x50000000].map decode =
    [.ok (.new 16), .ok (.new 48), .ok (.absorb 5), .ok (.finalize 0x03 2 0), .ok (.finalize 0 0 48),
      .ok (.finalize 0xFF 7 32), .ok (.squeeze 32), .ok .restart] ∧
  [0x00000000, 0x60000000, 0x51000000, 0x50000001, 0x10000040, 0x30020000].map decode =
    [.error (.reservedOpcode 0), .error (.reservedOpcode 6), .error (.reservedBitSet 5), .error (.reservedBitSet 5),
      .error (.reservedBitSet 1), .error (.reservedBitSet 3)]

/-- Decoding the word of a well-formed command gives the command back, for every operand value the encoding admits
(R72 to R77). -/
def Obligations.DecodeEncodeAgree : Prop :=
  ∀ i : Instr, i.wellFormed = true → decode (encode i) = .ok i

/-- Every word that decodes is the word of the command it decodes to, and that command is well formed: no bit of a
legal word is ignored and each command has one spelling (R71 to R78). -/
def Obligations.LegalWordHasOneMeaning : Prop :=
  ∀ (c : Word) (i : Instr), decode c = .ok i → i.wellFormed = true ∧ encode i = c

/-- R80: which words are illegal, and what an illegal word does: `ILLEGAL_CMD`, no payload read, no other state
changed. R80 does not say whether such a word leaves `cmd`; that it does is the model's choice, read from R51
(20_memory.md section 1): log entry 15, DEDUCED. -/
def Obligations.IllegalWordsFault : Prop :=
  (∀ c : Word, (∃ e, decode c = .error e) ↔
    (opcodeOf c = 0 ∨ 6 ≤ opcodeOf c) ∨ bits c 27 24 ≠ 0 ∨ (opcodeOf c = 1 ∧ bits c 23 6 ≠ 0) ∨
      (opcodeOf c = 3 ∧ bits c 23 17 ≠ 0) ∨ (opcodeOf c = 5 ∧ bits c 23 0 ≠ 0)) ∧
  (∀ (c : Word) (e : Illegal) (rest : List Word) (s : State),
    decode c = .error e → s.cmd = c :: rest → s.fault = false →
    step s = .next { s with cmd := rest, fault := true, fcause := .illegalCmd })

/-! ## The step (20_memory.md R51, R52, R67) -/

/-- When the next word on `cmd` decodes to a well-formed command whose payload is on `din`, the step takes the word
and is the command's meaning on the state without it (R51). That it takes the word also of a command that faults or is
refused is the model's choice: log entry 15, DEDUCED. -/
def Obligations.StepRunsDecodedCommand : Prop :=
  ∀ (c : Word) (rest : List Word) (i : Instr) (s : State),
    s.cmd = c :: rest → decode c = .ok i → i.wellFormed = true → payloadNeed i s ≤ s.din.length →
    step s = exec i { s with cmd := rest }

/-- An idle block holds its state (60_exceptions.md section 6), and a command whose payload is not all on `din` does
not complete and has no partial effect (93_implementation_defined.md U16). That the model's step then answers the
unchanged state is the model's choice: log entries 5 and 6. -/
def Obligations.StepWaitsForCommandAndPayload : Prop :=
  (∀ s : State, s.cmd = [] → step s = .next s) ∧
  (∀ (c : Word) (rest : List Word) (i : Instr) (s : State),
    s.cmd = c :: rest → decode c = .ok i → s.din.length < payloadNeed i s → step s = .next s)

/-- No step stops, in any state: every command word is run, refused without effect, faulted, or waits. That no command
hangs is 70_reset_and_hazards.md section 4. That a step with no word on `cmd`, and a step whose word's payload is not
all on `din` (which 93_implementation_defined.md U16 calls stuck), answers a next state and not a stop is the model's
choice: log entries 5 and 6, both DEDUCED. -/
def Obligations.EveryStepAnswersNext : Prop := ∀ s : State, ∃ t : State, step s = .next t

/-! ## Reset (20_memory.md R54) and the status port (10_state.md R34) -/

/-- Asserting reset puts every piece of state at its reset value and empties the three channels, whatever they
held. -/
def Obligations.ResetInputClearsEverything : Prop :=
  ∀ s : State, s.host .reset =
    { imask := zero12, omask := zero12, acc := zero12, iblk := zero48, ioff := 0, oblk := zero48, ooff := 0,
      mode := .absorbing, keyed := false, fault := false, fcause := .noCause, cmd := [], din := [], dout := [] } ∧
    (s.host .reset).status = 0x00

/-- R34: the bits of `STATUS`, and that it exposes nothing but the mode, `keyed`, `fault` and the cause. -/
def Obligations.StatusBits : Prop :=
  (∀ s : State, s.status.getLsbD 0 = decide (s.mode = .finalized) ∧ s.status.getLsbD 1 = s.keyed ∧
    s.status.getLsbD 2 = s.fault ∧ s.status.extractLsb' 3 3 = s.fcause.code ∧ s.status.extractLsb' 6 2 = 0) ∧
  (∀ s t : State, s.mode = t.mode → s.keyed = t.keyed → s.fault = t.fault → s.fcause = t.fcause →
    s.status = t.status) ∧
  [Cause.noCause, .illegalCmd, .notKeyed, .keyLen, .dsWidth, .finOffset, .rounds, .blockLen].map Cause.code =
    [0, 1, 2, 3, 4, 5, 6, 7]

/-- The host's channels: a sent word is taken after those before it, fed bytes follow those before them, collected
bytes leave `dout` from its front, and none of these touches the block (20_memory.md R51 to R53). -/
def Obligations.HostActsOnlyOnChannels : Prop :=
  (∀ (c : Word) (s : State), s.host (.send c) = { s with cmd := s.cmd ++ [c] }) ∧
  (∀ (bs : List Byte) (s : State), s.host (.feed bs) = { s with din := s.din ++ bs }) ∧
  (∀ (n : Nat) (s : State), s.collected n ++ (s.host (.collect n)).dout = s.dout ∧
    (s.collected n).length = min n s.dout.length ∧
    s.host (.collect n) = { s with dout := (s.host (.collect n)).dout })

/-! ## The permutation's contract (40_permutation.md) -/

/-- R102's loop: `permute(s, R)` applies the rounds with `c[12-R], .., c[11]` in that order. -/
def Obligations.PermuteAppliesLastRounds : Prop :=
  ∀ (c : Config) (s : Lanes) (R : Fin 13),
    permute c s R =
      (List.range R.val).foldl (fun t k => c.round t (c.constants.toList.getD (12 - R.val + k) 0)) s

/-- The laws the spec derives in R102: no round for `R = 0`, and one round with `c[12-R]` before the last `R - 1`. -/
def Obligations.PermutePeelsFirstRound : Prop :=
  ∀ (c : Config) (s : Lanes), permute c s 0 = s ∧
    ∀ (R : Nat) (h : R < 12),
      permute c s ⟨R + 1, by omega⟩ =
        permute c (c.round s (c.constants.toList.getD (11 - R) 0)) ⟨R, by omega⟩

/-- R101: a round count above 12 is the violation `ROUNDS`; up to 12 it is not. -/
def Obligations.PermuteRejectsMoreThanTwelveRounds : Prop :=
  ∀ (c : Config) (s : Lanes) (R : Nat),
    (12 < R → permuteChecked c s R = .error .rounds) ∧
    (∀ h : R ≤ 12, permuteChecked c s R = .ok (permute c s ⟨R, by omega⟩)) ∧
    permuteChecked c s c.rounds.val = .ok (P c s)

/-! ## The rolling functions (41_rolling.md) -/

/-- R122: the twelve words of `roll_linear(s)`, with the new word at index 11 (R123). -/
def Obligations.RollLinearWords : Prop :=
  ∀ s : Lanes, (rollLinear s).toList =
    [s[4], s[5], s[6], s[7], s[8], s[9], s[10], s[11], s[1], s[2], s[3],
      s[0] ^^^ (s[0] <<< 13) ^^^ (s[4].rotateLeft 3)]

/-- The linear roll is linear over GF(2), which the spec derives in R122. -/
def Obligations.RollLinearIsLinear : Prop :=
  (∀ a b : Lanes, rollLinear (xor12 a b) = xor12 (rollLinear a) (rollLinear b)) ∧ rollLinear zero12 = zero12

/-- R124: the twelve words of `roll_nonlinear(s)`; it is not linear and does not map zero to zero. -/
def Obligations.RollNonlinearWords : Prop :=
  (∀ s : Lanes, (rollNonlinear s).toList =
    [s[4], s[5], s[6], s[7], s[8], s[9], s[10], s[11], s[1], s[2], s[3],
      (s[4] &&& s[8]) ^^^ s[0].rotateLeft 5 ^^^ s[4].rotateLeft 13 ^^^ 0x00000007]) ∧
  (∃ a b : Lanes, rollNonlinear (xor12 a b) ≠ xor12 (rollNonlinear a) (rollNonlinear b)) ∧
  (rollNonlinear zero12).toList = List.replicate 11 0 ++ [0x00000007]

/-! ## Codec, paddings, per-block steps (42_block_helpers.md) -/

/-- R140 and R56: word `i` of a decoded block is `b[4i] + 2^8 b[4i+1] + 2^16 b[4i+2] + 2^24 b[4i+3]`. -/
def Obligations.DecodeIsLittleEndian : Prop :=
  ∀ (b : Block) (i : Nat) (h : i < 12),
    ((leDecode b)[i]).toNat =
      (b[4 * i]).toNat + 2 ^ 8 * (b[4 * i + 1]).toNat + 2 ^ 16 * (b[4 * i + 2]).toNat + 2 ^ 24 * (b[4 * i + 3]).toNat

/-- R142's sentence, which the spec derives: the codec is a bijection, XOR commutes with it, and zero decodes to
zero. -/
def Obligations.CodecIsBijection : Prop :=
  (∀ b : Block, leEncode (leDecode b) = b) ∧ (∀ w : Lanes, leDecode (leEncode w) = w) ∧
  (∀ a b : Block, leDecode (Vector.ofFn fun k => a[k] ^^^ b[k]) = xor12 (leDecode a) (leDecode b)) ∧
  leDecode zero48 = zero12

/-- R143: the bytes of the padded key: the key, one `0x01`, zeros. -/
def Obligations.PadKeyBytes : Prop :=
  ∀ key : List Byte, key.length < 48 →
    (padKey key).toList = key ++ [0x01] ++ List.replicate (47 - key.length) 0x00

/-- Two different keys of at most 47 bytes pad differently, keys that differ only by trailing zero bytes among them
(the spec derives it in R143). -/
def Obligations.DifferentKeysPadDifferently : Prop :=
  ∀ k₁ k₂ : List Byte, k₁.length < 48 → k₂.length < 48 → padKey k₁ = padKey k₂ → k₁ = k₂

/-- R144: the padding byte is `2^w + (ds mod 2^w)`: the low `w` bits of `ds`, a one bit at position `w`, zeros above;
so bits of `ds` at `w` and above do not matter and the byte is never zero. -/
def Obligations.PadByteBits : Prop :=
  ∀ (ds : Byte) (w : Nat), w ≤ 7 →
    (padByte ds w).toNat = 2 ^ w + ds.toNat % 2 ^ w ∧
    ∀ k < 8, (padByte ds w).getLsbD k = if k < w then ds.getLsbD k else decide (k = w)

/-- R145: the buffered tail is kept, the padding byte stands at the cursor, zeros above it. -/
def Obligations.PadBlockBytes : Prop :=
  ∀ (iblk : Block) (ioff : Fin 48) (pb : Byte),
    (padBlock iblk ioff pb).toList =
      iblk.toList.take ioff.val ++ [pb] ++ List.replicate (47 - ioff.val) 0x00

/-- R146 and R148: MPA writes `acc` only, GEN writes `oblk` only, each with one call of `P`. -/
def Obligations.BlockStepsWriteOneRegister : Prop :=
  ∀ (c : Config) (s : State),
    s.mpa c = { s with acc := xor12 s.acc (P c (xor12 (leDecode s.iblk) s.imask)) } ∧
    s.gen c = { s with oblk := leEncode (xor12 (P c s.omask) s.imask) }

/-! ## NEW (43_deck_commands.md R160) -/

/-- NEW completes on an unfaulted block, keyed or not and in either mode, when the key is shorter than 48 bytes and
on `din`: the state it leaves, all of it. A longer key raises `KEY_LEN` and does nothing else. -/
def Obligations.NewLeavesFreshState : Prop :=
  ∀ (klen : Nat) (s : State), s.fault = false →
    (klen < 48 → klen ≤ s.din.length →
      exec (.new klen) s = .next
        { imask := P Config.deck (leDecode (padKey (s.din.take klen))), omask := zero12, acc := zero12,
          iblk := zero48, ioff := 0, oblk := zero48, ooff := 0, mode := .absorbing, keyed := true, fault := false,
          fcause := s.fcause, cmd := s.cmd, din := s.din.drop klen, dout := s.dout }) ∧
    (48 ≤ klen → exec (.new klen) s = .next { s with fault := true, fcause := .keyLen })

/-- A key of 48 bytes or more faults with `KEY_LEN` before any key byte is taken, and changes nothing else; length 47
does not (R195, R202). -/
def Obligations.KeyOfBlockLengthFaults : Prop :=
  (∀ (klen : Nat) (s : State), s.fault = false → 48 ≤ klen →
    exec (.new klen) s = .next { s with fault := true, fcause := .keyLen }) ∧
  (∀ s : State, s.fault = false → 47 ≤ s.din.length →
    ∃ t, exec (.new 47) s = .next t ∧ t.fault = false ∧ t.keyed = true)

/-- Nothing of the old key or of what was absorbed survives a NEW: two unfaulted blocks with the same channels are
the same after it (R160 "discards everything of the old key"). -/
def Obligations.NewForgetsOldState : Prop :=
  ∀ (klen : Nat) (s t u : State), s.fault = false → t.fault = false → s.fcause = t.fcause →
    s.cmd = t.cmd → s.din = t.din → s.dout = t.dout → klen < 48 →
    exec (.new klen) s = .next u → exec (.new klen) t = .next u

/-! ## ABSORB (R161 to R163, R187, R194) -/

/-- R162: an effective ABSORB runs the rule's loop over its message, byte by byte: store at `iblk[ioff]`, and with the
48th byte fold the block into `acc`, roll `imask` once and set `ioff` to 0. Nothing else changes but `din`. On an
unkeyed block it raises `NOT_KEYED`. The loop also fixes the bytes of `iblk` at and above the cursor after a fold: they
stay as they were stored, as the pseudocode of R162 and D12 leave them. U11 lets them be any value, so they are the
model's choice: log entry 9, DESIGN CHOICE. AbsorbFoldsWholeBlocks leaves them open. -/
def Obligations.AbsorbRunsByteLoop : Prop :=
  ∀ (len : Nat) (s : State), s.fault = false →
    (s.keyed = true → s.mode = .absorbing → 1 ≤ len → len ≤ s.din.length →
      exec (.absorb len) s = .next ((s.din.take len).foldl
        (fun (u : State) (b : Byte) =>
          if u.ioff.val = 47 then
            { u with
              iblk := u.iblk.set u.ioff.val b
              acc := xor12 u.acc (P Config.deck (xor12 (leDecode (u.iblk.set u.ioff.val b)) u.imask))
              imask := rollLinear u.imask
              ioff := 0 }
          else { u with iblk := u.iblk.set u.ioff.val b, ioff := u.ioff + 1 })
        { s with din := s.din.drop len })) ∧
    (s.keyed = false → exec (.absorb len) s = .next { s with fault := true, fcause := .notKeyed })

/-- R163's sentence, which the spec derives from R162: ABSORB in block terms. With `M` the buffered tail followed by
the message and `nb` its whole blocks, the accumulator folds the `nb` blocks, `imask` is rolled `nb` times, `ioff` is
the rest, and the last bytes of `M` are in `iblk` below it; nothing else but `din` changes. -/
def Obligations.AbsorbFoldsWholeBlocks : Prop :=
  ∀ (len : Nat) (s : State), s.keyed = true → s.fault = false → s.mode = .absorbing → 1 ≤ len → len ≤ s.din.length →
    let M := s.iblk.toList.take s.ioff.val ++ s.din.take len
    let nb := (s.ioff.val + len) / 48
    ∃ iblk' : Block,
      exec (.absorb len) s = .next
        { s with
          acc := foldBlocks Config.deck s.imask s.acc M nb
          imask := rollLinear^[nb] s.imask
          ioff := Fin.ofNat 48 (s.ioff.val + len)
          iblk := iblk'
          din := s.din.drop len } ∧
      ∀ k : Fin 48, k.val < (s.ioff.val + len) % 48 → iblk'[k] = M.getD (48 * nb + k.val) 0

/-- R161 and R194: ABSORB does nothing in `Finalized` mode and nothing for the empty message, but take its payload
from `din` (R67). -/
def Obligations.AbsorbSilentNoOp : Prop :=
  (∀ (len : Nat) (s : State), s.keyed = true → s.fault = false → s.mode = .finalized → len ≤ s.din.length →
    exec (.absorb len) s = .next { s with din := s.din.drop len }) ∧
  (∀ s : State, s.keyed = true → s.fault = false → exec (.absorb 0) s = .next s)

/-- R187, with the whole state in agreement as the spec derives: absorbing any partition of a message in order is
absorbing it at once, empty chunks among them. R187 speaks of `iblk` below the cursor only; that the bytes above it
agree too rests on the model's choice of log entry 9, DESIGN CHOICE. -/
def Obligations.ChunkedAbsorbAgrees : Prop :=
  ∀ (lens : List Nat) (s : State), s.keyed = true → s.fault = false → lens.sum ≤ s.din.length →
    ∃ t, runAll (lens.map Instr.absorb) s = .next t ∧ exec (.absorb lens.sum) s = .next t

/-! ## FINALIZE (R170, R171) -/

/-- R170: what an effective FINALIZE leaves, all of it, for every legal `ds`, `w`, `off`. On an unkeyed block it raises
`NOT_KEYED`. -/
def Obligations.FinalizeLeavesFirstBlock : Prop :=
  ∀ (ds : Byte) (w : Nat) (off : Fin 49) (s : State), s.fault = false → w ≤ 7 →
    let a1 := xor12 s.acc (P Config.deck (xor12 (leDecode (padBlock s.iblk s.ioff (padByte ds w))) s.imask))
    let m1 := rollLinear (rollLinear s.imask)
    let y := P Config.deck a1
    (s.keyed = true → s.mode = .absorbing →
      exec (.finalize ds w off.val) s = .next
        { s with
          imask := m1
          omask := rollNonlinear y
          acc := a1
          iblk := zero48
          ioff := 0
          oblk := leEncode (xor12 (P Config.deck y) m1)
          ooff := off
          mode := .finalized }) ∧
    (s.keyed = false → exec (.finalize ds w off.val) s = .next { s with fault := true, fcause := .notKeyed })

/-- R171: the preconditions, tested before the mode, `DS_WIDTH` before `FIN_OFFSET`, and the silent no-op of a second
FINALIZE with legal arguments. -/
def Obligations.FinalizePreconditionsAndNoOp : Prop :=
  ∀ (ds : Byte) (w off : Nat) (s : State), s.keyed = true → s.fault = false →
    (7 < w → exec (.finalize ds w off) s = .next { s with fault := true, fcause := .dsWidth }) ∧
    (w ≤ 7 → 48 < off → exec (.finalize ds w off) s = .next { s with fault := true, fcause := .finOffset }) ∧
    (w ≤ 7 → off ≤ 48 → s.mode = .finalized → exec (.finalize ds w off) s = .next s)

/-- R204: no command word spells a width above 7, so a block driven by words never records `DS_WIDTH`. -/
def Obligations.DsWidthUnreachableByWords : Prop :=
  (∀ (c : Word) (ds : Byte) (w off : Nat), decode c = .ok (.finalize ds w off) → w ≤ 7) ∧
  (∀ s t : State, step s = .next t → t.fcause = .dsWidth → s.fcause = .dsWidth)

/-! ## SQUEEZE (R174, R176, R188, R191) -/

/-- R176: an effective SQUEEZE runs the rule's `while` loop. On an unkeyed block it raises `NOT_KEYED`. The values of
`omask`, `oblk` and `ooff` that the loop leaves, and the bound `ooff ≤ 47`, are those of an eager block, which generates
the next output block as soon as the cursor reaches 48: R177 lets a model be eager or lazy, and eager is this model's
choice: log entry 8, DESIGN CHOICE. The bytes on `dout` are the same for both. -/
def Obligations.SqueezeRunsWhileLoop : Prop :=
  ∀ (n : Nat) (s : State), s.fault = false →
    (s.keyed = true → s.mode = .finalized → 1 ≤ n →
      exec (.squeeze n) s = .next (squeezeWhile Config.deck (n + 1) n s) ∧
      (squeezeWhile Config.deck (n + 1) n s).ooff.val ≤ 47) ∧
    (s.keyed = false → exec (.squeeze n) s = .next { s with fault := true, fcause := .notKeyed })

/-- The output stream from any `Finalized` state: exactly `n` bytes are emitted, byte `q` of them is byte
`(ooff + q) mod 48` of the block counted `(ooff + q) / 48` from the current one, and the output side ends where the
stream stands; nothing else changes (the spec derives it in R177 and R191). The clauses on `oblk`, `omask` and `ooff`
are for an eager block, which R177 leaves to the model: log entry 8, DESIGN CHOICE. -/
def Obligations.SqueezeEmitsStream : Prop :=
  ∀ (n : Nat) (s : State), s.keyed = true → s.fault = false → s.mode = .finalized → 1 ≤ n →
    exec (.squeeze n) s = .next
      { s with
        dout := s.dout ++ (List.range n).map
          (fun q => (upcomingBlock Config.deck s ((s.ooff.val + q) / 48)).toList.getD ((s.ooff.val + q) % 48) 0)
        oblk := upcomingBlock Config.deck s ((s.ooff.val + n) / 48)
        omask := rollNonlinear^[(s.ooff.val + n) / 48] s.omask
        ooff := Fin.ofNat 49 ((s.ooff.val + n) % 48) }

/-- R174: SQUEEZE does nothing and emits nothing in `Absorbing` mode, whatever `n`, and for `n = 0` in either mode,
also at `ooff = 48`. -/
def Obligations.SqueezeSilentNoOp : Prop :=
  (∀ (n : Nat) (s : State), s.keyed = true → s.fault = false → s.mode = .absorbing →
    exec (.squeeze n) s = .next s) ∧
  (∀ s : State, s.keyed = true → s.fault = false → exec (.squeeze 0) s = .next s)

/-- R188, with the end states in agreement as the spec derives: reading any partition of a length in order emits the
bytes of one read of that length, reads of 0 bytes among them. -/
def Obligations.ChunkedSqueezeAgrees : Prop :=
  ∀ (sizes : List Nat) (s : State), s.keyed = true → s.fault = false →
    ∃ t, runAll (sizes.map Instr.squeeze) s = .next t ∧ exec (.squeeze sizes.sum) s = .next t

/-! ## RESTART (R180, R192) -/

/-- R180: RESTART from `Finalized` zeroes the output side and goes back to `Absorbing`, leaving `acc`, `imask` and all
else; from `Absorbing` it does nothing; on an unkeyed block it raises `NOT_KEYED`. -/
def Obligations.RestartKeepsAccumulatorAndMask : Prop :=
  ∀ s : State, s.fault = false →
    (s.keyed = true → s.mode = .finalized →
      exec .restart s = .next { s with omask := zero12, oblk := zero48, ooff := 0, mode := .absorbing }) ∧
    (s.keyed = true → s.mode = .absorbing → exec .restart s = .next s) ∧
    (s.keyed = false → exec .restart s = .next { s with fault := true, fcause := .notKeyed })

/-- How many bytes were squeezed in a cycle, and with which offset, has no effect on later cycles: after RESTART only
the bytes already emitted differ (the spec derives it in R192). -/
def Obligations.RestartForgetsOutputSide : Prop :=
  ∀ (ds : Byte) (w off₁ off₂ n₁ n₂ : Nat) (s : State), s.keyed = true → s.fault = false → s.mode = .absorbing →
    w ≤ 7 → off₁ ≤ 48 → off₂ ≤ 48 →
    ∃ t₁ t₂, runAll [.finalize ds w off₁, .squeeze n₁, .restart] s = .next t₁ ∧
      runAll [.finalize ds w off₂, .squeeze n₂, .restart] s = .next t₂ ∧
      t₁ = { t₂ with dout := t₁.dout } ∧ t₁.mode = .absorbing

/-! ## Cycles (R190, R191) -/

/-- The closed form of a cycle, which the spec derives in R190 and R191: from `imask = m0`, `acc = a0`, an empty input
buffer and `Absorbing` mode, absorbing a message, finalizing and squeezing emits bytes `off ..` of the stream
`S = Z_0 || Z_1 || ..` with `Z_j = E(P(rn^j(P(a1))) ^ m1)`, where `a1` folds the message's blocks and its padded tail
and `m1 = rl^(nb+2)(m0)`. The last clause, on `oblk`, `omask` and `ooff`, is for an eager block, which R177 leaves to
the model: log entry 8, DESIGN CHOICE. -/
def Obligations.CycleClosedForm : Prop :=
  ∀ (len n : Nat) (ds : Byte) (w : Nat) (off : Fin 49) (s : State),
    s.keyed = true → s.fault = false → s.mode = .absorbing → s.ioff = 0 → len ≤ s.din.length → w ≤ 7 →
    let M := s.din.take len
    let nb := len / 48
    let a1 := foldBlocks Config.deck s.imask s.acc (M ++ [padByte ds w]) (nb + 1)
    let m1 := rollLinear^[nb + 2] s.imask
    ∃ t, runAll [.absorb len, .finalize ds w off.val, .squeeze n] s = .next t ∧
      t.acc = a1 ∧ t.imask = m1 ∧ t.mode = .finalized ∧ t.din = s.din.drop len ∧
      t.dout = s.dout ++ (List.range n).map (fun q => streamByte Config.deck (P Config.deck a1) m1 (off.val + q)) ∧
      (1 ≤ n → t.oblk = outputBlock Config.deck (P Config.deck a1) m1 ((off.val + n) / 48) ∧
        t.omask = rollNonlinear^[(off.val + n) / 48 + 1] (P Config.deck a1) ∧ t.ooff.val = (off.val + n) % 48)

/-- A cycle that RESTART ends hands `acc` and `imask` on and starts the next one with everything else as NEW leaves it,
whatever was squeezed: the spec derives it in R192. `a1` and `m1` are those of CycleClosedForm. -/
def Obligations.NextCycleStartsWhereLastEnded : Prop :=
  ∀ (len n : Nat) (ds : Byte) (w : Nat) (off : Fin 49) (s : State),
    s.keyed = true → s.fault = false → s.mode = .absorbing → s.ioff = 0 → len ≤ s.din.length → w ≤ 7 →
    ∃ out : List Byte, out.length = n ∧
      runAll [.absorb len, .finalize ds w off.val, .squeeze n, .restart] s = .next
        { s with
          imask := rollLinear^[len / 48 + 2] s.imask
          omask := zero12
          acc := foldBlocks Config.deck s.imask s.acc (s.din.take len ++ [padByte ds w]) (len / 48 + 1)
          iblk := zero48
          ioff := 0
          oblk := zero48
          ooff := 0
          mode := .absorbing
          din := s.din.drop len
          dout := s.dout ++ out }

/-! ## Faults, refusals, silent no-ops (60_exceptions.md) -/

/-- R203: every command but NEW faults with `NOT_KEYED` on an unkeyed block, also where it would have been a silent
no-op, and changes nothing else. -/
def Obligations.UnkeyedCommandsFault : Prop :=
  ∀ (i : Instr) (s : State), s.keyed = false → s.fault = false → (∀ klen, i ≠ .new klen) →
    exec i s = .next { s with fault := true, fcause := .notKeyed }

/-- R206: a command that raises a fault writes `fault` and `fcause` and nothing else, takes no payload and emits
nothing; so a command takes full effect or none. -/
def Obligations.FaultEntryIsPrecise : Prop :=
  ∀ (i : Instr) (s t : State), s.fault = false → exec i s = .next t → t.fault = true →
    t = { s with fault := true, fcause := t.fcause } ∧ t.fcause ≠ .noCause

/-- R207: while `fault = 1` every command is refused without effect, NEW among them, and illegal words by the order of
R211: nothing is taken from `din`, nothing emitted, and `STATUS` stays readable with its value. R207 does not say
whether the refused word leaves `cmd`; that the step takes it is the model's choice, read from R51 (20_memory.md
section 1): log entry 15, DEDUCED. -/
def Obligations.FaultedBlockRefusesEverything : Prop :=
  ∀ s : State, s.fault = true →
    (∀ i : Instr, exec i s = .next s) ∧ step s = .next { s with cmd := s.cmd.tail } ∧
    ∀ t, step s = .next t → t.status = s.status

/-- R211: the fixed order of examination, its eight lines one after the other. Lines 1 and 2 are those of a word; from
line 3 on the word decodes. In the first clause, that the illegal or refused word leaves `cmd` is not R211's but the
model's choice, read from R51 (20_memory.md section 1): log entry 15, DEDUCED. -/
def Obligations.ExaminationOrder : Prop :=
  (∀ (c : Word) (rest : List Word) (e : Illegal) (s : State), s.cmd = c :: rest → decode c = .error e →
    step s = .next (if s.fault then { s with cmd := rest }
      else { s with cmd := rest, fault := true, fcause := .illegalCmd })) ∧
  (∀ (i : Instr) (s : State), payloadNeed i s ≤ s.din.length →
    (s.fault = true → exec i s = .next s) ∧
    (s.fault = false → s.keyed = false → (∀ klen, i ≠ .new klen) →
      exec i s = .next { s with fault := true, fcause := .notKeyed }) ∧
    (∀ klen, i = .new klen → s.fault = false → 48 ≤ klen →
      exec i s = .next { s with fault := true, fcause := .keyLen }) ∧
    (∀ ds w off, i = .finalize ds w off → s.fault = false → s.keyed = true →
      (7 < w → exec i s = .next { s with fault := true, fcause := .dsWidth }) ∧
      (w ≤ 7 → 48 < off → exec i s = .next { s with fault := true, fcause := .finOffset })) ∧
    (s.fault = false → s.keyed = true → legalArgs i = true → silentNoOp i s = true →
      exec i s = .next { s with din := s.din.drop (payloadLen i) }) ∧
    (s.fault = false → (s.keyed = true ∨ ∃ klen, i = .new klen) → legalArgs i = true →
      ∃ t, exec i s = .next t ∧ t.fault = false ∧ t.keyed = true))

/-- R212: the complete list of silent no-ops. Each changes no state of the block and emits nothing; a no-op ABSORB
still takes its payload. -/
def Obligations.SilentNoOpsChangeNothing : Prop :=
  ∀ s : State, s.keyed = true → s.fault = false →
    (∀ len, s.mode = .finalized ∨ len = 0 → len ≤ s.din.length →
      exec (.absorb len) s = .next { s with din := s.din.drop len }) ∧
    (∀ ds w off, s.mode = .finalized → w ≤ 7 → off ≤ 48 → exec (.finalize ds w off) s = .next s) ∧
    (∀ n, s.mode = .absorbing ∨ n = 0 → exec (.squeeze n) s = .next s) ∧
    (s.mode = .absorbing → exec .restart s = .next s)

/-- R214: only reset clears `fault` and `fcause`: no step does and no other act of the host does; after reset the
block is unkeyed. -/
def Obligations.OnlyResetClearsFault : Prop :=
  ∀ s : State, s.fault = true →
    (∀ t, step s = .next t → t.fault = true ∧ t.fcause = s.fcause) ∧
    (∀ e : HostEvent, e ≠ .reset → (s.host e).fault = true ∧ (s.host e).fcause = s.fcause) ∧
    (s.host .reset).fault = false ∧ (s.host .reset).fcause = .noCause ∧ (s.host .reset).keyed = false

/-! ## The mode machine and who touches what -/

/-- R186: the mode after every command on a keyed, unfaulted block with legal arguments, how many bytes it emits, and
which commands are no-ops. -/
def Obligations.ModeTransitionTable : Prop :=
  ∀ (i : Instr) (s : State), s.keyed = true → s.fault = false → legalArgs i = true → payloadLen i ≤ s.din.length →
    ∃ t, exec i s = .next t ∧ t.mode = modeAfter i s.mode ∧ t.keyed = true ∧ t.fault = false ∧
      t.dout.length = s.dout.length + emitted i s ∧
      (silentNoOp i s = true → t = { s with din := s.din.drop (payloadLen i) })

/-- The frame of each command, from the table the spec derives in R40: what an effective or ineffective command leaves
as it was, unless it faults (FaultEntryIsPrecise). No command writes `cmd`. -/
def Obligations.CommandsWriteOnlyTheirRegisters : Prop :=
  ∀ s t : State,
    (∀ klen, exec (.new klen) s = .next t → t.cmd = s.cmd ∧ t.dout = s.dout) ∧
    (∀ len, exec (.absorb len) s = .next t → t.omask = s.omask ∧ t.oblk = s.oblk ∧ t.ooff = s.ooff ∧
      t.mode = s.mode ∧ t.keyed = s.keyed ∧ t.cmd = s.cmd ∧ t.dout = s.dout) ∧
    (∀ ds w off, exec (.finalize ds w off) s = .next t → t.keyed = s.keyed ∧ t.cmd = s.cmd ∧ t.din = s.din ∧
      t.dout = s.dout) ∧
    (∀ n, exec (.squeeze n) s = .next t → t.imask = s.imask ∧ t.acc = s.acc ∧ t.iblk = s.iblk ∧ t.ioff = s.ioff ∧
      t.mode = s.mode ∧ t.keyed = s.keyed ∧ t.cmd = s.cmd ∧ t.din = s.din) ∧
    (exec .restart s = .next t → t.imask = s.imask ∧ t.acc = s.acc ∧ t.iblk = s.iblk ∧ t.ioff = s.ioff ∧
      t.keyed = s.keyed ∧ t.cmd = s.cmd ∧ t.din = s.din ∧ t.dout = s.dout)

/-- R67: NEW takes exactly `klen` bytes of `din` and ABSORB exactly `len`, also as a silent no-op; a faulting or
refused command takes nothing; the others take nothing; SQUEEZE emits exactly `n` bytes when effective and none when
not, and no other command emits. -/
def Obligations.PayloadAccounting : Prop :=
  ∀ (i : Instr) (s t : State), exec i s = .next t →
    t.din = s.din.drop (if s.fault = true ∨ t.fault = true then 0 else payloadLen i) ∧
    ∃ out : List Byte, t.dout = s.dout ++ out ∧
      ((∃ n, i = .squeeze n ∧ out.length = n ∧ s.keyed = true ∧ s.fault = false ∧ s.mode = .finalized) ∨
        (out = [] ∧ ∀ n, i = .squeeze n → s.keyed = true → s.fault = false → s.mode = .absorbing ∨ n = 0))

/-- Only SQUEEZE puts bytes on `dout`, appended to those already there (20_memory.md R53), and only on a keyed,
unfaulted, `Finalized` block, which follows from R67 (a SQUEEZE emits exactly `n` bytes when effective and none when
not), R174 and R176 (effective only in `Finalized` mode), R203 (an unkeyed block faults) and R207 (a faulted block
refuses). -/
def Obligations.OutputOnlyFromEffectiveSqueeze : Prop :=
  ∀ s t : State, step s = .next t →
    ∃ out : List Byte, t.dout = s.dout ++ out ∧
      (out ≠ [] → s.keyed = true ∧ s.fault = false ∧ s.mode = .finalized ∧
        ∃ (c : Word) (rest : List Word), s.cmd = c :: rest ∧ decode c = .ok (.squeeze out.length))

/-- `keyed` is set by a NEW that completes and by nothing else, and no step clears it (10_state.md R32, 92 D4). -/
def Obligations.KeyedOnlyByNew : Prop :=
  ∀ s t : State, step s = .next t →
    (s.keyed = true → t.keyed = true) ∧
    (s.keyed = false → t.keyed = true →
      s.fault = false ∧ ∃ (c : Word) (rest : List Word) (klen : Nat),
        s.cmd = c :: rest ∧ decode c = .ok (.new klen) ∧ klen < 48 ∧ t.din = s.din.drop klen)

/-- `ooff = 48` is left only by a FINALIZE with offset 48 (the spec derives it in R29 for an eager block; that this one
is eager is the model's choice: log entry 8, DESIGN CHOICE). -/
def Obligations.SpentCursorOnlyFromFinalize : Prop :=
  ∀ s t : State, step s = .next t → t.ooff.val = 48 → s.ooff.val ≠ 48 →
    s.mode = .absorbing ∧ t.mode = .finalized ∧
    ∃ (c : Word) (rest : List Word) (ds : Byte) (w : Nat), s.cmd = c :: rest ∧ decode c = .ok (.finalize ds w 48)

/-! ## Invariants -/

/-- The invariant holds after reset. -/
def Obligations.ResetMeetsInvariant : Prop := BlockInv State.reset

/-- Every step keeps the invariant, from every state that meets it. -/
def Obligations.EveryStepKeepsInvariant : Prop := ∀ s t : State, BlockInv s → step s = .next t → BlockInv t

/-- Whatever the host does between the steps, every state it can bring the block to meets the invariant. -/
def Obligations.ReachableStatesMeetInvariant : Prop := ∀ s : State, Reachable s → BlockInv s

/-- The bytes of `iblk` at index `ioff` and above are never read before they are overwritten: two blocks that differ
only there step alike, with the same output and the same `STATUS`, and still differ at most there (10_state.md R23,
which the spec derives). -/
def Obligations.BytesAboveCursorNeverMatter : Prop :=
  ∀ s t s' : State, agreeBelowCursor s t → step s = .next s' →
    ∃ t', step t = .next t' ∧ agreeBelowCursor s' t' ∧ t'.dout = s'.dout ∧ t'.status = s'.status

/-! ## Two levels, several blocks -/

/-- The encoded level runs the abstract level (00_scope.md R17): from a state whose `cmd` and `din` begin with the
words and the payloads of a list of commands that words can spell, that many steps end in the state the abstract
commands give, with the words taken, and with the payloads taken too unless a fault was recorded (after a fault the
streams are meaningless, R67). That after a fault the words of the faulting command and of the refused ones have left
`cmd` too (`cmd := rest`) is the model's choice, read from R51: log entry 15, DEDUCED. -/
def Obligations.WordsRunAbstractCommands : Prop :=
  ∀ (xs : List Command) (rest : List Word) (more : List Byte) (s : State),
    (∀ x ∈ xs, x.operands.wellFormed = true) →
    s.cmd = xs.map (fun x => encode x.operands) ++ rest →
    s.din = xs.flatMap Command.payload ++ more →
    ∃ (t : State) (din' : List Byte), Host.Core.run Sys2Proof.core xs.length s = .next t ∧
      t = { xs.foldl (fun u x => x.run Config.deck u) s with cmd := rest, din := din' } ∧
      (t.fault = false → din' = more)

/-- Instances share no mutable state: a step of one leaves every other as it was (60_exceptions.md R222). -/
def Obligations.InstancesShareNoState : Prop :=
  ∀ (k : Nat) (bank bank' : List State), stepInstance k bank = .next bank' →
    bank'.length = bank.length ∧ (∀ j, j ≠ k → bank'[j]? = bank[j]?) ∧
    ∀ s, bank[k]? = some s → ∃ t, bank'[k]? = some t ∧ step s = .next t

/-- The text form (30_encoding.md R82): reading the text of a command gives the command back. -/
def Obligations.TextFormReadsBack : Prop := ∀ x : Command, readCommand x.text = some x
end

