-- ==== Sys2Proof/Laws/State.lean ====
section
/-! SUPPORT. One lemma per field per update of the state, so that no proof unfolds a record update. -/

namespace Sys2Proof.Machine

section

variable (s : State)

/-! `raise Fault(cause)` writes `fault` and `fcause` only (R206). -/

@[simp] theorem State.raiseFault_imask (c : Cause) : (s.raiseFault c).imask = s.imask := rfl
@[simp] theorem State.raiseFault_omask (c : Cause) : (s.raiseFault c).omask = s.omask := rfl
@[simp] theorem State.raiseFault_acc (c : Cause) : (s.raiseFault c).acc = s.acc := rfl
@[simp] theorem State.raiseFault_iblk (c : Cause) : (s.raiseFault c).iblk = s.iblk := rfl
@[simp] theorem State.raiseFault_ioff (c : Cause) : (s.raiseFault c).ioff = s.ioff := rfl
@[simp] theorem State.raiseFault_oblk (c : Cause) : (s.raiseFault c).oblk = s.oblk := rfl
@[simp] theorem State.raiseFault_ooff (c : Cause) : (s.raiseFault c).ooff = s.ooff := rfl
@[simp] theorem State.raiseFault_mode (c : Cause) : (s.raiseFault c).mode = s.mode := rfl
@[simp] theorem State.raiseFault_keyed (c : Cause) : (s.raiseFault c).keyed = s.keyed := rfl
@[simp] theorem State.raiseFault_fault (c : Cause) : (s.raiseFault c).fault = true := rfl
@[simp] theorem State.raiseFault_fcause (c : Cause) : (s.raiseFault c).fcause = c := rfl
@[simp] theorem State.raiseFault_cmd (c : Cause) : (s.raiseFault c).cmd = s.cmd := rfl
@[simp] theorem State.raiseFault_din (c : Cause) : (s.raiseFault c).din = s.din := rfl
@[simp] theorem State.raiseFault_dout (c : Cause) : (s.raiseFault c).dout = s.dout := rfl

/-! Taking a command writes `cmd` only. -/

@[simp] theorem State.takeCommand_imask : (s.takeCommand).imask = s.imask := rfl
@[simp] theorem State.takeCommand_omask : (s.takeCommand).omask = s.omask := rfl
@[simp] theorem State.takeCommand_acc : (s.takeCommand).acc = s.acc := rfl
@[simp] theorem State.takeCommand_iblk : (s.takeCommand).iblk = s.iblk := rfl
@[simp] theorem State.takeCommand_ioff : (s.takeCommand).ioff = s.ioff := rfl
@[simp] theorem State.takeCommand_oblk : (s.takeCommand).oblk = s.oblk := rfl
@[simp] theorem State.takeCommand_ooff : (s.takeCommand).ooff = s.ooff := rfl
@[simp] theorem State.takeCommand_mode : (s.takeCommand).mode = s.mode := rfl
@[simp] theorem State.takeCommand_keyed : (s.takeCommand).keyed = s.keyed := rfl
@[simp] theorem State.takeCommand_fault : (s.takeCommand).fault = s.fault := rfl
@[simp] theorem State.takeCommand_fcause : (s.takeCommand).fcause = s.fcause := rfl
@[simp] theorem State.takeCommand_cmd : (s.takeCommand).cmd = s.cmd.tail := rfl
@[simp] theorem State.takeCommand_din : (s.takeCommand).din = s.din := rfl
@[simp] theorem State.takeCommand_dout : (s.takeCommand).dout = s.dout := rfl

/-! `DinRead` writes `din` only (R52). -/

@[simp] theorem State.dropDin_imask (n : Nat) : (s.dropDin n).imask = s.imask := rfl
@[simp] theorem State.dropDin_omask (n : Nat) : (s.dropDin n).omask = s.omask := rfl
@[simp] theorem State.dropDin_acc (n : Nat) : (s.dropDin n).acc = s.acc := rfl
@[simp] theorem State.dropDin_iblk (n : Nat) : (s.dropDin n).iblk = s.iblk := rfl
@[simp] theorem State.dropDin_ioff (n : Nat) : (s.dropDin n).ioff = s.ioff := rfl
@[simp] theorem State.dropDin_oblk (n : Nat) : (s.dropDin n).oblk = s.oblk := rfl
@[simp] theorem State.dropDin_ooff (n : Nat) : (s.dropDin n).ooff = s.ooff := rfl
@[simp] theorem State.dropDin_mode (n : Nat) : (s.dropDin n).mode = s.mode := rfl
@[simp] theorem State.dropDin_keyed (n : Nat) : (s.dropDin n).keyed = s.keyed := rfl
@[simp] theorem State.dropDin_fault (n : Nat) : (s.dropDin n).fault = s.fault := rfl
@[simp] theorem State.dropDin_fcause (n : Nat) : (s.dropDin n).fcause = s.fcause := rfl
@[simp] theorem State.dropDin_cmd (n : Nat) : (s.dropDin n).cmd = s.cmd := rfl
@[simp] theorem State.dropDin_din (n : Nat) : (s.dropDin n).din = s.din.drop n := rfl
@[simp] theorem State.dropDin_dout (n : Nat) : (s.dropDin n).dout = s.dout := rfl

/-! `DoutWrite` writes `dout` only (R53). -/

@[simp] theorem State.doutWrite_imask (bs : List Byte) : (s.doutWrite bs).imask = s.imask := rfl
@[simp] theorem State.doutWrite_omask (bs : List Byte) : (s.doutWrite bs).omask = s.omask := rfl
@[simp] theorem State.doutWrite_acc (bs : List Byte) : (s.doutWrite bs).acc = s.acc := rfl
@[simp] theorem State.doutWrite_iblk (bs : List Byte) : (s.doutWrite bs).iblk = s.iblk := rfl
@[simp] theorem State.doutWrite_ioff (bs : List Byte) : (s.doutWrite bs).ioff = s.ioff := rfl
@[simp] theorem State.doutWrite_oblk (bs : List Byte) : (s.doutWrite bs).oblk = s.oblk := rfl
@[simp] theorem State.doutWrite_ooff (bs : List Byte) : (s.doutWrite bs).ooff = s.ooff := rfl
@[simp] theorem State.doutWrite_mode (bs : List Byte) : (s.doutWrite bs).mode = s.mode := rfl
@[simp] theorem State.doutWrite_keyed (bs : List Byte) : (s.doutWrite bs).keyed = s.keyed := rfl
@[simp] theorem State.doutWrite_fault (bs : List Byte) : (s.doutWrite bs).fault = s.fault := rfl
@[simp] theorem State.doutWrite_fcause (bs : List Byte) : (s.doutWrite bs).fcause = s.fcause := rfl
@[simp] theorem State.doutWrite_cmd (bs : List Byte) : (s.doutWrite bs).cmd = s.cmd := rfl
@[simp] theorem State.doutWrite_din (bs : List Byte) : (s.doutWrite bs).din = s.din := rfl
@[simp] theorem State.doutWrite_dout (bs : List Byte) : (s.doutWrite bs).dout = s.dout ++ bs := rfl

/-! Storing a message byte writes `iblk` only (R66). -/

@[simp] theorem State.storeByte_imask (b : Byte) : (s.storeByte b).imask = s.imask := rfl
@[simp] theorem State.storeByte_omask (b : Byte) : (s.storeByte b).omask = s.omask := rfl
@[simp] theorem State.storeByte_acc (b : Byte) : (s.storeByte b).acc = s.acc := rfl
@[simp] theorem State.storeByte_iblk (b : Byte) : (s.storeByte b).iblk = s.iblk.set s.ioff.val b := rfl
@[simp] theorem State.storeByte_ioff (b : Byte) : (s.storeByte b).ioff = s.ioff := rfl
@[simp] theorem State.storeByte_oblk (b : Byte) : (s.storeByte b).oblk = s.oblk := rfl
@[simp] theorem State.storeByte_ooff (b : Byte) : (s.storeByte b).ooff = s.ooff := rfl
@[simp] theorem State.storeByte_mode (b : Byte) : (s.storeByte b).mode = s.mode := rfl
@[simp] theorem State.storeByte_keyed (b : Byte) : (s.storeByte b).keyed = s.keyed := rfl
@[simp] theorem State.storeByte_fault (b : Byte) : (s.storeByte b).fault = s.fault := rfl
@[simp] theorem State.storeByte_fcause (b : Byte) : (s.storeByte b).fcause = s.fcause := rfl
@[simp] theorem State.storeByte_cmd (b : Byte) : (s.storeByte b).cmd = s.cmd := rfl
@[simp] theorem State.storeByte_din (b : Byte) : (s.storeByte b).din = s.din := rfl
@[simp] theorem State.storeByte_dout (b : Byte) : (s.storeByte b).dout = s.dout := rfl

/-! Padding writes `iblk` only (R145). -/

@[simp] theorem State.padInput_imask (pb : Byte) : (s.padInput pb).imask = s.imask := by simp only [State.padInput]
@[simp] theorem State.padInput_omask (pb : Byte) : (s.padInput pb).omask = s.omask := by simp only [State.padInput]
@[simp] theorem State.padInput_acc (pb : Byte) : (s.padInput pb).acc = s.acc := by simp only [State.padInput]
@[simp] theorem State.padInput_iblk (pb : Byte) : (s.padInput pb).iblk = padBlock s.iblk s.ioff pb := by simp only [State.padInput]
@[simp] theorem State.padInput_ioff (pb : Byte) : (s.padInput pb).ioff = s.ioff := by simp only [State.padInput]
@[simp] theorem State.padInput_oblk (pb : Byte) : (s.padInput pb).oblk = s.oblk := by simp only [State.padInput]
@[simp] theorem State.padInput_ooff (pb : Byte) : (s.padInput pb).ooff = s.ooff := by simp only [State.padInput]
@[simp] theorem State.padInput_mode (pb : Byte) : (s.padInput pb).mode = s.mode := by simp only [State.padInput]
@[simp] theorem State.padInput_keyed (pb : Byte) : (s.padInput pb).keyed = s.keyed := by simp only [State.padInput]
@[simp] theorem State.padInput_fault (pb : Byte) : (s.padInput pb).fault = s.fault := by simp only [State.padInput]
@[simp] theorem State.padInput_fcause (pb : Byte) : (s.padInput pb).fcause = s.fcause := by simp only [State.padInput]
@[simp] theorem State.padInput_cmd (pb : Byte) : (s.padInput pb).cmd = s.cmd := by simp only [State.padInput]
@[simp] theorem State.padInput_din (pb : Byte) : (s.padInput pb).din = s.din := by simp only [State.padInput]
@[simp] theorem State.padInput_dout (pb : Byte) : (s.padInput pb).dout = s.dout := by simp only [State.padInput]

/-! Clearing the input side writes `iblk` and `ioff` (R170). -/

@[simp] theorem State.clearInput_imask : (s.clearInput).imask = s.imask := rfl
@[simp] theorem State.clearInput_omask : (s.clearInput).omask = s.omask := rfl
@[simp] theorem State.clearInput_acc : (s.clearInput).acc = s.acc := rfl
@[simp] theorem State.clearInput_iblk : (s.clearInput).iblk = zero48 := rfl
@[simp] theorem State.clearInput_ioff : (s.clearInput).ioff = 0 := rfl
@[simp] theorem State.clearInput_oblk : (s.clearInput).oblk = s.oblk := rfl
@[simp] theorem State.clearInput_ooff : (s.clearInput).ooff = s.ooff := rfl
@[simp] theorem State.clearInput_mode : (s.clearInput).mode = s.mode := rfl
@[simp] theorem State.clearInput_keyed : (s.clearInput).keyed = s.keyed := rfl
@[simp] theorem State.clearInput_fault : (s.clearInput).fault = s.fault := rfl
@[simp] theorem State.clearInput_fcause : (s.clearInput).fcause = s.fcause := rfl
@[simp] theorem State.clearInput_cmd : (s.clearInput).cmd = s.cmd := rfl
@[simp] theorem State.clearInput_din : (s.clearInput).din = s.din := rfl
@[simp] theorem State.clearInput_dout : (s.clearInput).dout = s.dout := rfl

/-! MPA writes `acc` only (R146). -/

@[simp] theorem State.mpa_imask (c : Config) : (s.mpa c).imask = s.imask := by simp only [State.mpa]
@[simp] theorem State.mpa_omask (c : Config) : (s.mpa c).omask = s.omask := by simp only [State.mpa]
@[simp] theorem State.mpa_acc (c : Config) : (s.mpa c).acc = xor12 s.acc (P c (xor12 (leDecode s.iblk) s.imask)) := by simp only [State.mpa]
@[simp] theorem State.mpa_iblk (c : Config) : (s.mpa c).iblk = s.iblk := by simp only [State.mpa]
@[simp] theorem State.mpa_ioff (c : Config) : (s.mpa c).ioff = s.ioff := by simp only [State.mpa]
@[simp] theorem State.mpa_oblk (c : Config) : (s.mpa c).oblk = s.oblk := by simp only [State.mpa]
@[simp] theorem State.mpa_ooff (c : Config) : (s.mpa c).ooff = s.ooff := by simp only [State.mpa]
@[simp] theorem State.mpa_mode (c : Config) : (s.mpa c).mode = s.mode := by simp only [State.mpa]
@[simp] theorem State.mpa_keyed (c : Config) : (s.mpa c).keyed = s.keyed := by simp only [State.mpa]
@[simp] theorem State.mpa_fault (c : Config) : (s.mpa c).fault = s.fault := by simp only [State.mpa]
@[simp] theorem State.mpa_fcause (c : Config) : (s.mpa c).fcause = s.fcause := by simp only [State.mpa]
@[simp] theorem State.mpa_cmd (c : Config) : (s.mpa c).cmd = s.cmd := by simp only [State.mpa]
@[simp] theorem State.mpa_din (c : Config) : (s.mpa c).din = s.din := by simp only [State.mpa]
@[simp] theorem State.mpa_dout (c : Config) : (s.mpa c).dout = s.dout := by simp only [State.mpa]

/-! The linear roll writes `imask` only (R120). -/

@[simp] theorem State.rollImask_imask : (s.rollImask).imask = rollLinear s.imask := by simp only [State.rollImask]
@[simp] theorem State.rollImask_omask : (s.rollImask).omask = s.omask := by simp only [State.rollImask]
@[simp] theorem State.rollImask_acc : (s.rollImask).acc = s.acc := by simp only [State.rollImask]
@[simp] theorem State.rollImask_iblk : (s.rollImask).iblk = s.iblk := by simp only [State.rollImask]
@[simp] theorem State.rollImask_ioff : (s.rollImask).ioff = s.ioff := by simp only [State.rollImask]
@[simp] theorem State.rollImask_oblk : (s.rollImask).oblk = s.oblk := by simp only [State.rollImask]
@[simp] theorem State.rollImask_ooff : (s.rollImask).ooff = s.ooff := by simp only [State.rollImask]
@[simp] theorem State.rollImask_mode : (s.rollImask).mode = s.mode := by simp only [State.rollImask]
@[simp] theorem State.rollImask_keyed : (s.rollImask).keyed = s.keyed := by simp only [State.rollImask]
@[simp] theorem State.rollImask_fault : (s.rollImask).fault = s.fault := by simp only [State.rollImask]
@[simp] theorem State.rollImask_fcause : (s.rollImask).fcause = s.fcause := by simp only [State.rollImask]
@[simp] theorem State.rollImask_cmd : (s.rollImask).cmd = s.cmd := by simp only [State.rollImask]
@[simp] theorem State.rollImask_din : (s.rollImask).din = s.din := by simp only [State.rollImask]
@[simp] theorem State.rollImask_dout : (s.rollImask).dout = s.dout := by simp only [State.rollImask]

/-! GEN writes `oblk` only (R148). -/

@[simp] theorem State.gen_imask (c : Config) : (s.gen c).imask = s.imask := by simp only [State.gen]
@[simp] theorem State.gen_omask (c : Config) : (s.gen c).omask = s.omask := by simp only [State.gen]
@[simp] theorem State.gen_acc (c : Config) : (s.gen c).acc = s.acc := by simp only [State.gen]
@[simp] theorem State.gen_iblk (c : Config) : (s.gen c).iblk = s.iblk := by simp only [State.gen]
@[simp] theorem State.gen_ioff (c : Config) : (s.gen c).ioff = s.ioff := by simp only [State.gen]
@[simp] theorem State.gen_oblk (c : Config) : (s.gen c).oblk = leEncode (xor12 (P c s.omask) s.imask) := by simp only [State.gen]
@[simp] theorem State.gen_ooff (c : Config) : (s.gen c).ooff = s.ooff := by simp only [State.gen]
@[simp] theorem State.gen_mode (c : Config) : (s.gen c).mode = s.mode := by simp only [State.gen]
@[simp] theorem State.gen_keyed (c : Config) : (s.gen c).keyed = s.keyed := by simp only [State.gen]
@[simp] theorem State.gen_fault (c : Config) : (s.gen c).fault = s.fault := by simp only [State.gen]
@[simp] theorem State.gen_fcause (c : Config) : (s.gen c).fcause = s.fcause := by simp only [State.gen]
@[simp] theorem State.gen_cmd (c : Config) : (s.gen c).cmd = s.cmd := by simp only [State.gen]
@[simp] theorem State.gen_din (c : Config) : (s.gen c).din = s.din := by simp only [State.gen]
@[simp] theorem State.gen_dout (c : Config) : (s.gen c).dout = s.dout := by simp only [State.gen]

/-! The nonlinear roll writes `omask` only (R120). -/

@[simp] theorem State.rollOmask_imask : (s.rollOmask).imask = s.imask := by simp only [State.rollOmask]
@[simp] theorem State.rollOmask_omask : (s.rollOmask).omask = rollNonlinear s.omask := by simp only [State.rollOmask]
@[simp] theorem State.rollOmask_acc : (s.rollOmask).acc = s.acc := by simp only [State.rollOmask]
@[simp] theorem State.rollOmask_iblk : (s.rollOmask).iblk = s.iblk := by simp only [State.rollOmask]
@[simp] theorem State.rollOmask_ioff : (s.rollOmask).ioff = s.ioff := by simp only [State.rollOmask]
@[simp] theorem State.rollOmask_oblk : (s.rollOmask).oblk = s.oblk := by simp only [State.rollOmask]
@[simp] theorem State.rollOmask_ooff : (s.rollOmask).ooff = s.ooff := by simp only [State.rollOmask]
@[simp] theorem State.rollOmask_mode : (s.rollOmask).mode = s.mode := by simp only [State.rollOmask]
@[simp] theorem State.rollOmask_keyed : (s.rollOmask).keyed = s.keyed := by simp only [State.rollOmask]
@[simp] theorem State.rollOmask_fault : (s.rollOmask).fault = s.fault := by simp only [State.rollOmask]
@[simp] theorem State.rollOmask_fcause : (s.rollOmask).fcause = s.fcause := by simp only [State.rollOmask]
@[simp] theorem State.rollOmask_cmd : (s.rollOmask).cmd = s.cmd := by simp only [State.rollOmask]
@[simp] theorem State.rollOmask_din : (s.rollOmask).din = s.din := by simp only [State.rollOmask]
@[simp] theorem State.rollOmask_dout : (s.rollOmask).dout = s.dout := by simp only [State.rollOmask]

/-! Setting the output cursor writes `ooff` only. -/

@[simp] theorem State.setOoff_imask (k : Fin 49) : (s.setOoff k).imask = s.imask := rfl
@[simp] theorem State.setOoff_omask (k : Fin 49) : (s.setOoff k).omask = s.omask := rfl
@[simp] theorem State.setOoff_acc (k : Fin 49) : (s.setOoff k).acc = s.acc := rfl
@[simp] theorem State.setOoff_iblk (k : Fin 49) : (s.setOoff k).iblk = s.iblk := rfl
@[simp] theorem State.setOoff_ioff (k : Fin 49) : (s.setOoff k).ioff = s.ioff := rfl
@[simp] theorem State.setOoff_oblk (k : Fin 49) : (s.setOoff k).oblk = s.oblk := rfl
@[simp] theorem State.setOoff_ooff (k : Fin 49) : (s.setOoff k).ooff = k := rfl
@[simp] theorem State.setOoff_mode (k : Fin 49) : (s.setOoff k).mode = s.mode := rfl
@[simp] theorem State.setOoff_keyed (k : Fin 49) : (s.setOoff k).keyed = s.keyed := rfl
@[simp] theorem State.setOoff_fault (k : Fin 49) : (s.setOoff k).fault = s.fault := rfl
@[simp] theorem State.setOoff_fcause (k : Fin 49) : (s.setOoff k).fcause = s.fcause := rfl
@[simp] theorem State.setOoff_cmd (k : Fin 49) : (s.setOoff k).cmd = s.cmd := rfl
@[simp] theorem State.setOoff_din (k : Fin 49) : (s.setOoff k).din = s.din := rfl
@[simp] theorem State.setOoff_dout (k : Fin 49) : (s.setOoff k).dout = s.dout := rfl

/-! Setting the mode writes `mode` only. -/

@[simp] theorem State.setMode_imask (m : Mode) : (s.setMode m).imask = s.imask := rfl
@[simp] theorem State.setMode_omask (m : Mode) : (s.setMode m).omask = s.omask := rfl
@[simp] theorem State.setMode_acc (m : Mode) : (s.setMode m).acc = s.acc := rfl
@[simp] theorem State.setMode_iblk (m : Mode) : (s.setMode m).iblk = s.iblk := rfl
@[simp] theorem State.setMode_ioff (m : Mode) : (s.setMode m).ioff = s.ioff := rfl
@[simp] theorem State.setMode_oblk (m : Mode) : (s.setMode m).oblk = s.oblk := rfl
@[simp] theorem State.setMode_ooff (m : Mode) : (s.setMode m).ooff = s.ooff := rfl
@[simp] theorem State.setMode_mode (m : Mode) : (s.setMode m).mode = m := rfl
@[simp] theorem State.setMode_keyed (m : Mode) : (s.setMode m).keyed = s.keyed := rfl
@[simp] theorem State.setMode_fault (m : Mode) : (s.setMode m).fault = s.fault := rfl
@[simp] theorem State.setMode_fcause (m : Mode) : (s.setMode m).fcause = s.fcause := rfl
@[simp] theorem State.setMode_cmd (m : Mode) : (s.setMode m).cmd = s.cmd := rfl
@[simp] theorem State.setMode_din (m : Mode) : (s.setMode m).din = s.din := rfl
@[simp] theorem State.setMode_dout (m : Mode) : (s.setMode m).dout = s.dout := rfl

/-! Deriving the output mask writes `omask` only; `acc` keeps its value (R22). -/

@[simp] theorem State.deriveOmask_imask (c : Config) : (s.deriveOmask c).imask = s.imask := by simp only [State.deriveOmask]
@[simp] theorem State.deriveOmask_omask (c : Config) : (s.deriveOmask c).omask = P c s.acc := by simp only [State.deriveOmask]
@[simp] theorem State.deriveOmask_acc (c : Config) : (s.deriveOmask c).acc = s.acc := by simp only [State.deriveOmask]
@[simp] theorem State.deriveOmask_iblk (c : Config) : (s.deriveOmask c).iblk = s.iblk := by simp only [State.deriveOmask]
@[simp] theorem State.deriveOmask_ioff (c : Config) : (s.deriveOmask c).ioff = s.ioff := by simp only [State.deriveOmask]
@[simp] theorem State.deriveOmask_oblk (c : Config) : (s.deriveOmask c).oblk = s.oblk := by simp only [State.deriveOmask]
@[simp] theorem State.deriveOmask_ooff (c : Config) : (s.deriveOmask c).ooff = s.ooff := by simp only [State.deriveOmask]
@[simp] theorem State.deriveOmask_mode (c : Config) : (s.deriveOmask c).mode = s.mode := by simp only [State.deriveOmask]
@[simp] theorem State.deriveOmask_keyed (c : Config) : (s.deriveOmask c).keyed = s.keyed := by simp only [State.deriveOmask]
@[simp] theorem State.deriveOmask_fault (c : Config) : (s.deriveOmask c).fault = s.fault := by simp only [State.deriveOmask]
@[simp] theorem State.deriveOmask_fcause (c : Config) : (s.deriveOmask c).fcause = s.fcause := by simp only [State.deriveOmask]
@[simp] theorem State.deriveOmask_cmd (c : Config) : (s.deriveOmask c).cmd = s.cmd := by simp only [State.deriveOmask]
@[simp] theorem State.deriveOmask_din (c : Config) : (s.deriveOmask c).din = s.din := by simp only [State.deriveOmask]
@[simp] theorem State.deriveOmask_dout (c : Config) : (s.deriveOmask c).dout = s.dout := by simp only [State.deriveOmask]

/-! The next output block writes `oblk`, `ooff` and `omask` (R148). -/

@[simp] theorem State.nextBlock_imask (c : Config) (k : Fin 49) : (s.nextBlock c k).imask = s.imask := by simp [State.nextBlock]
@[simp] theorem State.nextBlock_omask (c : Config) (k : Fin 49) : (s.nextBlock c k).omask = rollNonlinear s.omask := by simp [State.nextBlock]
@[simp] theorem State.nextBlock_acc (c : Config) (k : Fin 49) : (s.nextBlock c k).acc = s.acc := by simp [State.nextBlock]
@[simp] theorem State.nextBlock_iblk (c : Config) (k : Fin 49) : (s.nextBlock c k).iblk = s.iblk := by simp [State.nextBlock]
@[simp] theorem State.nextBlock_ioff (c : Config) (k : Fin 49) : (s.nextBlock c k).ioff = s.ioff := by simp [State.nextBlock]
@[simp] theorem State.nextBlock_oblk (c : Config) (k : Fin 49) : (s.nextBlock c k).oblk = leEncode (xor12 (P c s.omask) s.imask) := by simp [State.nextBlock]
@[simp] theorem State.nextBlock_ooff (c : Config) (k : Fin 49) : (s.nextBlock c k).ooff = k := by simp [State.nextBlock]
@[simp] theorem State.nextBlock_mode (c : Config) (k : Fin 49) : (s.nextBlock c k).mode = s.mode := by simp [State.nextBlock]
@[simp] theorem State.nextBlock_keyed (c : Config) (k : Fin 49) : (s.nextBlock c k).keyed = s.keyed := by simp [State.nextBlock]
@[simp] theorem State.nextBlock_fault (c : Config) (k : Fin 49) : (s.nextBlock c k).fault = s.fault := by simp [State.nextBlock]
@[simp] theorem State.nextBlock_fcause (c : Config) (k : Fin 49) : (s.nextBlock c k).fcause = s.fcause := by simp [State.nextBlock]
@[simp] theorem State.nextBlock_cmd (c : Config) (k : Fin 49) : (s.nextBlock c k).cmd = s.cmd := by simp [State.nextBlock]
@[simp] theorem State.nextBlock_din (c : Config) (k : Fin 49) : (s.nextBlock c k).din = s.din := by simp [State.nextBlock]
@[simp] theorem State.nextBlock_dout (c : Config) (k : Fin 49) : (s.nextBlock c k).dout = s.dout := by simp [State.nextBlock]

end

end Sys2Proof.Machine
end

