-- ==== Sys2Proof/Laws/Operands.lean ====
section
/-! SUPPORT. What the examination of a command, acting on its verdict, and taking its payload can do. -/

namespace Sys2Proof.Machine

@[simp] theorem settle_refuse {α : Type} (s : State) (done go : State → α) :
    settle .refuse s done go = done s := rfl

@[simp] theorem settle_raise {α : Type} (c : Cause) (s : State) (done go : State → α) :
    settle (.raise c) s done go = done (s.raiseFault c) := rfl

@[simp] theorem settle_pass {α : Type} (s : State) (done go : State → α) :
    settle .pass s done go = go s := rfl

@[simp] theorem check_refuse (bad : Bool) (c : Cause) : Verdict.refuse.check bad c = .refuse := rfl

@[simp] theorem check_raise (bad : Bool) (c d : Cause) : (Verdict.raise d).check bad c = .raise d := rfl

@[simp] theorem check_pass (bad : Bool) (c : Cause) : Verdict.pass.check bad c = if bad then .raise c else .pass := rfl

/-- Everything acting on a verdict can do when it answers a next state. -/
theorem settle_next_cases {v : Verdict} {s t : State} {go : State → Host.Outcome State Fault Refusal}
    (h : settle v s .next go = .next t) :
    (v = .refuse ∧ t = s) ∨ (∃ c, v = .raise c ∧ t = s.raiseFault c) ∨ (v = .pass ∧ go s = .next t) := by
  cases v with
  | refuse => exact .inl ⟨rfl, by simpa using h.symm⟩
  | raise c => exact .inr (.inl ⟨c, rfl, by simpa using h.symm⟩)
  | pass => exact .inr (.inr ⟨rfl, by simpa using h⟩)

/-- Taking a payload that is there. -/
theorem withPayload_of_le {n : Nat} {s : State} (go : List Byte → State → State) (h : n ≤ s.din.length) :
    withPayload n s go = .next (go (s.din.take n) (s.dropDin n)) := by simp [withPayload, h]

/-- Everything taking a payload can do when it answers a next state. -/
theorem withPayload_next_cases {n : Nat} {s t : State} {go : List Byte → State → State}
    (h : withPayload n s go = .next t) : n ≤ s.din.length ∧ t = go (s.din.take n) (s.dropDin n) := by
  unfold withPayload at h
  split at h
  · exact ⟨‹_›, by simpa using h.symm⟩
  · cases h

/-- A faulted block's command is refused (R211, line 1). -/
theorem examine_of_fault {i : Instr} {s : State} (h : s.fault = true) : examine i s = .refuse := by
  cases i <;> simp [examine, prologue, h]

/-- An unkeyed block's command but NEW raises `NOT_KEYED` (R211, line 3). -/
theorem examine_of_unkeyed {i : Instr} {s : State} (hf : s.fault = false) (hk : s.keyed = false)
    (hn : ∀ klen, i ≠ .new klen) : examine i s = .raise .notKeyed := by
  cases i with
  | new klen => exact absurd rfl (hn klen)
  | absorb _ => simp [examine, prologue, hf, hk]
  | finalize _ _ _ => simp [examine, prologue, hf, hk]
  | squeeze _ => simp [examine, prologue, hf, hk]
  | restart => simp [examine, prologue, hf, hk]

/-- The verdict on NEW of an unfaulted block. -/
theorem examine_new {klen : Nat} {s : State} (hf : s.fault = false) :
    examine (.new klen) s = if 48 ≤ klen then .raise .keyLen else .pass := by
  simp [examine, prologue, hf]

/-- The verdict on ABSORB of a keyed, unfaulted block. -/
theorem examine_absorb {len : Nat} {s : State} (hf : s.fault = false) (hk : s.keyed = true) :
    examine (.absorb len) s = .pass := by simp [examine, prologue, hf, hk]

/-- The verdict on FINALIZE of a keyed, unfaulted block. -/
theorem examine_finalize {ds : Byte} {w off : Nat} {s : State} (hf : s.fault = false) (hk : s.keyed = true) :
    examine (.finalize ds w off) s =
      if 7 < w then .raise .dsWidth else if 48 < off then .raise .finOffset else .pass := by
  by_cases hw : 7 < w <;> simp [examine, prologue, hf, hk, hw]

/-- The verdict on SQUEEZE of a keyed, unfaulted block. -/
theorem examine_squeeze {n : Nat} {s : State} (hf : s.fault = false) (hk : s.keyed = true) :
    examine (.squeeze n) s = .pass := by simp [examine, prologue, hf, hk]

/-- The verdict on RESTART of a keyed, unfaulted block. -/
theorem examine_restart {s : State} (hf : s.fault = false) (hk : s.keyed = true) :
    examine .restart s = .pass := by simp [examine, prologue, hf, hk]

/-- A command that passes its examination is run by an unfaulted block, which is keyed unless the command is NEW. -/
theorem examine_pass {i : Instr} {s : State} (h : examine i s = .pass) :
    s.fault = false ∧ (s.keyed = true ∨ ∃ klen, i = .new klen) := by
  cases hf : s.fault with
  | true => rw [examine_of_fault hf] at h; cases h
  | false =>
    refine ⟨rfl, ?_⟩
    by_cases hk : s.keyed = true
    · exact .inl hk
    · by_contra hcon
      rw [not_or, not_exists] at hcon
      rw [examine_of_unkeyed hf (by simpa using hk) hcon.2] at h
      cases h

/-- A check that raises a cause passes on an earlier one or raises its own. -/
theorem check_eq_raise {v : Verdict} {bad : Bool} {c d : Cause} (h : v.check bad d = .raise c) :
    v = .raise c ∨ c = d := by
  cases v with
  | refuse => cases h
  | raise _ => exact .inl h
  | pass => cases bad <;> cases h; exact .inr rfl

/-- The prologue raises nothing but `NOT_KEYED`. -/
theorem prologue_eq_raise {isNew : Bool} {s : State} {c : Cause} (h : prologue isNew s = .raise c) :
    s.fault = false ∧ c = .notKeyed := by
  unfold prologue at h
  split at h
  · cases h
  · refine ⟨by simpa using ‹¬s.fault = true›, ?_⟩
    rcases check_eq_raise h with h | h
    · cases h
    · exact h

/-- A fault that a command raises has a cause, and the causes 1, 6 and 7 are not among them. -/
theorem examine_raise {i : Instr} {s : State} {c : Cause} (h : examine i s = .raise c) :
    c = .notKeyed ∨ c = .keyLen ∨ c = .dsWidth ∨ c = .finOffset := by
  cases i with
  | new _ =>
    rcases check_eq_raise h with h | h
    · exact .inl (prologue_eq_raise h).2
    · exact .inr (.inl h)
  | absorb _ => exact .inl (prologue_eq_raise h).2
  | finalize _ _ _ =>
    rcases check_eq_raise h with h | h
    · rcases check_eq_raise h with h | h
      · exact .inl (prologue_eq_raise h).2
      · exact .inr (.inr (.inl h))
    · exact .inr (.inr (.inr h))
  | squeeze _ => exact .inl (prologue_eq_raise h).2
  | restart => exact .inl (prologue_eq_raise h).2

end Sys2Proof.Machine
end

