-- ==== Sys2Proof/Laws/Absorb.lean ====
section
/-! SUPPORT. What absorbing one byte, and a list of bytes, can do. -/

namespace Sys2Proof.Machine

/-- Everything absorbing one byte can do: it buffers the byte, or it completes a block. -/
theorem absorbByte_cases (c : Config) (s : State) (b : Byte) :
    (∃ h : s.ioff.val + 1 < 48,
      absorbByte c s b = { s with iblk := s.iblk.set s.ioff.val b, ioff := ⟨s.ioff.val + 1, h⟩ }) ∨
    (s.ioff.val = 47 ∧
      absorbByte c s b =
        { s with
          iblk := s.iblk.set s.ioff.val b
          acc := xor12 s.acc (P c (xor12 (leDecode (s.iblk.set s.ioff.val b)) s.imask))
          imask := rollLinear s.imask
          ioff := 0 }) := by
  unfold absorbByte
  split
  · exact .inl ⟨‹_›, by simp only [State.storeByte]⟩
  · exact .inr ⟨by omega, by simp only [State.storeByte, State.mpa, State.rollImask]⟩

/-- Absorbing a byte leaves everything but `imask`, `acc`, `iblk` and `ioff`. -/
theorem absorbByte_frame (c : Config) (s : State) (b : Byte) :
    absorbByte c s b =
      { s with
        imask := (absorbByte c s b).imask
        acc := (absorbByte c s b).acc
        iblk := (absorbByte c s b).iblk
        ioff := (absorbByte c s b).ioff } := by
  rcases absorbByte_cases c s b with ⟨_, h⟩ | ⟨_, h⟩ <;> rw [h]

/-- Absorbing bytes leaves everything but `imask`, `acc`, `iblk` and `ioff`. -/
theorem foldl_absorbByte_frame (c : Config) (bs : List Byte) (s : State) :
    bs.foldl (absorbByte c) s =
      { s with
        imask := (bs.foldl (absorbByte c) s).imask
        acc := (bs.foldl (absorbByte c) s).acc
        iblk := (bs.foldl (absorbByte c) s).iblk
        ioff := (bs.foldl (absorbByte c) s).ioff } := by
  induction bs generalizing s with
  | nil => rfl
  | cons b bs ih =>
    have h := absorbByte_frame c s b
    rw [List.foldl_cons]
    generalize absorbByte c s b = u at h ⊢
    rw [ih u]
    rw [h]

/-- Absorbing a byte commutes with a change of the channels. -/
theorem absorbByte_channels (c : Config) (s : State) (b : Byte) (cmd : List Word) (din dout : List Byte) :
    absorbByte c { s with cmd := cmd, din := din, dout := dout } b =
      { absorbByte c s b with cmd := cmd, din := din, dout := dout } := by
  unfold absorbByte
  split <;> rfl

/-- Absorbing bytes commutes with a change of the channels. -/
theorem foldl_absorbByte_channels (c : Config) (bs : List Byte) (s : State) (cmd : List Word)
    (din dout : List Byte) :
    bs.foldl (absorbByte c) { s with cmd := cmd, din := din, dout := dout } =
      { bs.foldl (absorbByte c) s with cmd := cmd, din := din, dout := dout } := by
  induction bs generalizing s with
  | nil => rfl
  | cons b bs ih => rw [List.foldl_cons, List.foldl_cons, absorbByte_channels, ih]

/-- The effect of ABSORB in `Finalized` mode. -/
theorem absorbEffect_of_finalized (c : Config) (m : List Byte) {s : State} (h : s.mode = .finalized) :
    absorbEffect c m s = s := by simp [absorbEffect, h]

/-- The effect of ABSORB in `Absorbing` mode, the empty message included. -/
theorem absorbEffect_of_absorbing (c : Config) (m : List Byte) {s : State} (h : s.mode = .absorbing) :
    absorbEffect c m s = m.foldl (absorbByte c) s := by
  cases m <;> simp [absorbEffect, h]

/-- The effect of ABSORB leaves everything but `imask`, `acc`, `iblk` and `ioff`. -/
theorem absorbEffect_frame (c : Config) (m : List Byte) (s : State) :
    absorbEffect c m s =
      { s with
        imask := (absorbEffect c m s).imask
        acc := (absorbEffect c m s).acc
        iblk := (absorbEffect c m s).iblk
        ioff := (absorbEffect c m s).ioff } := by
  unfold absorbEffect
  split
  · rfl
  · exact foldl_absorbByte_frame c m s

/-- Absorbing a message in two parts is absorbing it at once. -/
theorem absorbEffect_append (c : Config) (a b : List Byte) (s : State) :
    absorbEffect c (a ++ b) s = absorbEffect c b (absorbEffect c a s) := by
  cases hm : s.mode with
  | absorbing =>
    rw [absorbEffect_of_absorbing _ _ hm, absorbEffect_of_absorbing _ a hm, List.foldl_append,
      absorbEffect_of_absorbing]
    rw [foldl_absorbByte_frame]
    exact hm
  | finalized =>
    rw [absorbEffect_of_finalized _ _ hm, absorbEffect_of_finalized _ _ hm, absorbEffect_of_finalized _ _ hm]

/-- The effect of ABSORB commutes with a change of the channels. -/
theorem absorbEffect_channels (c : Config) (m : List Byte) (s : State) (cmd : List Word) (din dout : List Byte) :
    absorbEffect c m { s with cmd := cmd, din := din, dout := dout } =
      { absorbEffect c m s with cmd := cmd, din := din, dout := dout } := by
  unfold absorbEffect
  split
  · rfl
  · exact foldl_absorbByte_channels c m s cmd din dout

/-- The effect of ABSORB commutes with taking bytes from `din`. -/
theorem absorbEffect_dropDin (c : Config) (m : List Byte) (n : Nat) (s : State) :
    absorbEffect c m (s.dropDin n) = (absorbEffect c m s).dropDin n := by
  have h := absorbEffect_channels c m s s.cmd (s.din.drop n) s.dout
  have hf := absorbEffect_frame c m s
  refine Eq.trans h ?_
  generalize absorbEffect c m s = u at hf ⊢
  rw [hf]
  rfl

end Sys2Proof.Machine
end

