-- ==== Sys2Proof/Laws/Decode.lean ====
section
/-! SUPPORT. Patterns, fields and command words as numbers: what decoding and encoding do, in arithmetic. -/

namespace Sys2Proof

/-- The part of a word above bit `k`. -/
theorem and_high_toNat (c : Word) (k : Nat) : (c &&& (BitVec.allOnes 32 <<< k)).toNat = c.toNat / 2 ^ k * 2 ^ k := by
  have h : c &&& (BitVec.allOnes 32 <<< k) = (c >>> k) <<< k := by
    ext i hi
    simp only [BitVec.getElem_and, BitVec.getElem_shiftLeft, BitVec.getElem_ushiftRight]
    by_cases h : i < k
    · simp [h]
    · have e : k + (i - k) = i := by omega
      have e2 : (BitVec.allOnes 32)[i - k]'(by omega) = true := BitVec.getElem_allOnes ..
      rw [e2]
      simp [h, e, BitVec.getLsbD_eq_getElem hi]
  rw [h, BitVec.toNat_shiftLeft, BitVec.toNat_ushiftRight, Nat.shiftLeft_eq, Nat.shiftRight_eq_div_pow,
    Nat.mod_eq_of_lt]
  have h1 := c.isLt
  have h2 : c.toNat / 2 ^ k * 2 ^ k ≤ c.toNat := Nat.div_mul_le_self _ _
  omega

/-- A pattern whose mask is the bits from `k` up. -/
theorem hasPattern_iff {c mask value : Word} (k : Nat) (hm : mask = BitVec.allOnes 32 <<< k) :
    hasPattern c mask value = true ↔ c.toNat / 2 ^ k * 2 ^ k = value.toNat := by
  unfold hasPattern
  rw [beq_iff_eq, hm, ← BitVec.toNat_inj, and_high_toNat]

/-- A field that lies below everything else is added. -/
theorem ofNat_or_ofNat {a b : Nat} (k : Nat) (hb : b < 2 ^ k) (ha : 2 ^ k ∣ a) (h : a + b < 2 ^ 32) :
    (BitVec.ofNat 32 a ||| BitVec.ofNat 32 b) = BitVec.ofNat 32 (a + b) := by
  obtain ⟨d, rfl⟩ := ha
  apply BitVec.eq_of_toNat_eq
  simp only [BitVec.toNat_or, BitVec.toNat_ofNat]
  rw [Nat.mod_eq_of_lt (show 2 ^ k * d < 2 ^ 32 by omega), Nat.mod_eq_of_lt (show b < 2 ^ 32 by omega),
    Nat.mod_eq_of_lt h]
  exact (Nat.two_pow_add_eq_or_of_lt hb d).symm

/-- Decoding in arithmetic: the patterns of R78 and the fields of R77. -/
theorem decode_ofNat {n : Nat} (h : n < 2 ^ 32) :
    decode (BitVec.ofNat 32 n) =
      if n / 2 ^ 6 * 2 ^ 6 = 0x10000000 then .ok (.new (n % 2 ^ 6))
      else if n / 2 ^ 24 * 2 ^ 24 = 0x20000000 then .ok (.absorb (n % 2 ^ 24))
      else if n / 2 ^ 17 * 2 ^ 17 = 0x30000000 then
        .ok (.finalize (BitVec.ofNat 8 (n % 2 ^ 8)) (n / 2 ^ 8 % 2 ^ 3) (n / 2 ^ 11 % 2 ^ 6))
      else if n / 2 ^ 24 * 2 ^ 24 = 0x40000000 then .ok (.squeeze (n % 2 ^ 24))
      else if n = 0x50000000 then .ok .restart
      else .error (illegalReason (BitVec.ofNat 32 n)) := by
  have hn : (BitVec.ofNat 32 n).toNat = n := by rw [BitVec.toNat_ofNat, Nat.mod_eq_of_lt h]
  have e : (BitVec.ofNat 32 n = 0x50000000) ↔ n = 0x50000000 := by
    rw [← BitVec.toNat_inj, hn]
    rfl
  unfold decode
  simp only [hasPattern_iff (mask := 0xFFFFFFC0) 6 (by decide), hasPattern_iff (mask := 0xFF000000) 24 (by decide),
    hasPattern_iff (mask := 0xFFFE0000) 17 (by decide), hn, beq_iff_eq, bits, e]
  simp

/-- The word of NEW as a number (R72). -/
theorem encode_new {klen : Nat} (h : klen < 2 ^ 6) : encode (.new klen) = BitVec.ofNat 32 (0x10000000 + klen) :=
  ofNat_or_ofNat (a := 0x10000000) 6 h (by decide) (by omega)

/-- The word of ABSORB as a number (R73). -/
theorem encode_absorb {len : Nat} (h : len < 2 ^ 24) : encode (.absorb len) = BitVec.ofNat 32 (0x20000000 + len) :=
  ofNat_or_ofNat (a := 0x20000000) 24 h (by decide) (by omega)

/-- The word of FINALIZE as a number (R74). -/
theorem encode_finalize {ds : Byte} {w off : Nat} (hw : w < 2 ^ 3) (ho : off < 2 ^ 6) :
    encode (.finalize ds w off) = BitVec.ofNat 32 (0x30000000 + off * 2 ^ 11 + w * 2 ^ 8 + ds.toNat) := by
  have hd := ds.isLt
  show (BitVec.ofNat 32 0x30000000 ||| _ ||| _ ||| _) = _
  rw [ofNat_or_ofNat (a := 0x30000000) (b := off * 2 ^ 11) 28 (by omega) (by decide) (by omega),
    ofNat_or_ofNat (b := w * 2 ^ 8) 11 (by omega) (by omega) (by omega),
    ofNat_or_ofNat (b := ds.toNat) 8 (by omega) (by omega) (by omega)]

/-- The word of SQUEEZE as a number (R75). -/
theorem encode_squeeze {n : Nat} (h : n < 2 ^ 24) : encode (.squeeze n) = BitVec.ofNat 32 (0x40000000 + n) :=
  ofNat_or_ofNat (a := 0x40000000) 24 h (by decide) (by omega)

end Sys2Proof
end

