-- ==== Sys2Proof/Laws/Squeeze.lean ====
section
/-! SUPPORT. What emitting one byte, and many, can do. -/

namespace Sys2Proof.Machine

/-- Everything emitting byte `k` of the current block can do: the byte goes out, and the block's last byte is
followed by the next block at once. -/
theorem emitAt_cases (c : Config) (k : Fin 48) (s : State) :
    (k.val < 47 ∧ emitAt c k s = { s with dout := s.dout ++ [s.oblk[k]], ooff := k.succ }) ∨
    (k.val = 47 ∧
      emitAt c k s =
        { s with
          dout := s.dout ++ [s.oblk[k]]
          oblk := leEncode (xor12 (P c s.omask) s.imask)
          omask := rollNonlinear s.omask
          ooff := 0 }) := by
  unfold emitAt
  split
  · exact .inr ⟨by omega, by simp only [State.nextBlock, State.gen, State.setOoff, State.rollOmask, State.doutWrite]⟩
  · exact .inl ⟨by omega, by simp only [State.setOoff, State.doutWrite]⟩

/-- Everything emitting one byte can do: it emits from the current block, or at `ooff = 48` from the next one. -/
theorem squeezeByte_cases (c : Config) (s : State) :
    (∃ h : s.ooff.val < 48, squeezeByte c s = emitAt c ⟨s.ooff.val, h⟩ s) ∨
    (s.ooff.val = 48 ∧ squeezeByte c s = emitAt c 0 (s.nextBlock c 0)) := by
  unfold squeezeByte
  split
  · exact .inl ⟨‹_›, rfl⟩
  · exact .inr ⟨by omega, rfl⟩

/-- Emitting leaves everything but `omask`, `oblk`, `ooff` and `dout`. -/
theorem emitAt_frame (c : Config) (k : Fin 48) (s : State) :
    emitAt c k s =
      { s with
        omask := (emitAt c k s).omask
        oblk := (emitAt c k s).oblk
        ooff := (emitAt c k s).ooff
        dout := (emitAt c k s).dout } := by
  rcases emitAt_cases c k s with ⟨_, h⟩ | ⟨_, h⟩ <;> rw [h]

/-- Emitting one byte leaves everything but `omask`, `oblk`, `ooff` and `dout`. -/
theorem squeezeByte_frame (c : Config) (s : State) :
    squeezeByte c s =
      { s with
        omask := (squeezeByte c s).omask
        oblk := (squeezeByte c s).oblk
        ooff := (squeezeByte c s).ooff
        dout := (squeezeByte c s).dout } := by
  rcases squeezeByte_cases c s with ⟨_, h⟩ | ⟨_, h⟩
  · rw [h]; exact emitAt_frame c _ s
  · rw [h, emitAt_frame c 0 (s.nextBlock c 0)]
    simp only [State.nextBlock, State.gen, State.setOoff, State.rollOmask]

/-- After a byte the cursor is below 48: the next block is generated at once (R176, eager). -/
theorem squeezeByte_ooff_lt (c : Config) (s : State) : (squeezeByte c s).ooff.val < 48 := by
  have key : ∀ (k : Fin 48) (u : State), (emitAt c k u).ooff.val < 48 := by
    intro k u
    rcases emitAt_cases c k u with ⟨hk, h⟩ | ⟨_, h⟩ <;> rw [h]
    · exact Nat.succ_lt_succ hk
    · exact Nat.zero_lt_succ 47
  rcases squeezeByte_cases c s with ⟨_, h⟩ | ⟨_, h⟩ <;> rw [h] <;> exact key _ _

/-- Emitting leaves everything but `omask`, `oblk`, `ooff` and `dout`. -/
theorem squeezeLoop_frame (c : Config) (n : Nat) (s : State) :
    squeezeLoop c n s =
      { s with
        omask := (squeezeLoop c n s).omask
        oblk := (squeezeLoop c n s).oblk
        ooff := (squeezeLoop c n s).ooff
        dout := (squeezeLoop c n s).dout } := by
  induction n generalizing s with
  | zero => rfl
  | succ n ih =>
    have h := squeezeByte_frame c s
    rw [squeezeLoop]
    generalize squeezeByte c s = u at h ⊢
    rw [ih u]
    rw [h]

/-- Two reads one after the other are one read of both lengths. -/
theorem squeezeLoop_add (c : Config) (m n : Nat) (s : State) :
    squeezeLoop c (m + n) s = squeezeLoop c n (squeezeLoop c m s) := by
  induction m generalizing s with
  | zero => simp [squeezeLoop]
  | succ m ih => rw [Nat.succ_add, squeezeLoop, ih, squeezeLoop]

/-- The effect of SQUEEZE in `Finalized` mode. -/
theorem squeezeEffect_of_finalized (c : Config) (n : Nat) {s : State} (h : s.mode = .finalized) :
    squeezeEffect c n s = squeezeLoop c n s := by simp [squeezeEffect, h]

/-- The effect of SQUEEZE in `Absorbing` mode. -/
theorem squeezeEffect_of_absorbing (c : Config) (n : Nat) {s : State} (h : s.mode = .absorbing) :
    squeezeEffect c n s = s := by simp [squeezeEffect, h]

/-- The effect of SQUEEZE leaves everything but `omask`, `oblk`, `ooff` and `dout`. -/
theorem squeezeEffect_frame (c : Config) (n : Nat) (s : State) :
    squeezeEffect c n s =
      { s with
        omask := (squeezeEffect c n s).omask
        oblk := (squeezeEffect c n s).oblk
        ooff := (squeezeEffect c n s).ooff
        dout := (squeezeEffect c n s).dout } := by
  unfold squeezeEffect
  split
  · exact squeezeLoop_frame c n s
  · rfl

end Sys2Proof.Machine
end

