-- ==== Sys2Proof/Laws/Exec.lean ====
section
/-! SUPPORT. What a command and a step can do: one equation and one inversion for all five commands. -/

namespace Sys2Proof.Machine

@[simp] theorem dropDin_zero (s : State) : s.dropDin 0 = s := rfl

/-- Every command is its examination, then its payload, then its effect. -/
theorem exec_eq_settle (i : Instr) (s : State) :
    exec i s = settle (examine i s) s .next fun s =>
      withPayload (payloadLen i) s fun bs t => (Command.assemble bs i).effect Config.deck t := by
  cases i with
  | new _ => rfl
  | absorb _ => rfl
  | finalize _ _ _ => rfl
  | squeeze _ => rfl
  | restart => rfl

/-- A command of a faulted block changes nothing. -/
theorem exec_of_fault (i : Instr) {s : State} (h : s.fault = true) : exec i s = .next s := by
  rw [exec_eq_settle, examine_of_fault h, settle_refuse]

/-- A command that raises a cause records it and does nothing else. -/
theorem exec_of_raise {i : Instr} {s : State} {c : Cause} (h : examine i s = .raise c) :
    exec i s = .next (s.raiseFault c) := by
  rw [exec_eq_settle, h, settle_raise]

/-- A command that passes its examination, with its payload there, has its effect. -/
theorem exec_of_pass {i : Instr} {s : State} (h : examine i s = .pass) (hp : payloadLen i ≤ s.din.length) :
    exec i s = .next
      ((Command.assemble (s.din.take (payloadLen i)) i).effect Config.deck (s.dropDin (payloadLen i))) := by
  rw [exec_eq_settle, h, settle_pass, withPayload_of_le _ hp]

/-- Everything a command can do when it answers a next state: it is refused, it faults, or it takes its payload and
has its effect. -/
theorem exec_next_cases {i : Instr} {s t : State} (h : exec i s = .next t) :
    (s.fault = true ∧ t = s) ∨
    (∃ c, examine i s = .raise c ∧ t = s.raiseFault c) ∨
    (examine i s = .pass ∧ payloadLen i ≤ s.din.length ∧
      t = (Command.assemble (s.din.take (payloadLen i)) i).effect Config.deck (s.dropDin (payloadLen i))) := by
  rw [exec_eq_settle] at h
  rcases settle_next_cases h with ⟨hv, ht⟩ | ⟨c, hv, ht⟩ | ⟨hv, hg⟩
  · refine .inl ⟨?_, ht⟩
    by_contra hf
    have hf : s.fault = false := by simpa using hf
    cases hk : s.keyed with
    | true =>
      cases i <;> simp [examine, prologue, hf, hk] at hv
      · split at hv <;> cases hv
      · split at hv
        · cases hv
        · simp at hv; split at hv <;> cases hv
    | false =>
      cases i <;> simp [examine, prologue, hf, hk] at hv
      split at hv <;> cases hv
  · exact .inr (.inl ⟨c, hv, ht⟩)
  · obtain ⟨hp, ht⟩ := withPayload_next_cases hg
    exact .inr (.inr ⟨hv, hp, ht⟩)

/-- An illegal word on an unfaulted block. -/
theorem illegalCommand_of_ok {s : State} (h : s.fault = false) : illegalCommand s = s.raiseFault .illegalCmd := by
  simp [illegalCommand, h]

/-- An illegal word on a faulted block. -/
theorem illegalCommand_of_fault {s : State} (h : s.fault = true) : illegalCommand s = s := by
  simp [illegalCommand, h]

/-- Everything a step can do when it answers a next state: nothing for want of a word or of a payload, an illegal
word, or a command. -/
theorem step_next_cases {s t : State} (h : step s = .next t) :
    t = s ∨
    (∃ c rest e, s.cmd = c :: rest ∧ decode c = .error e ∧ t = illegalCommand s.takeCommand) ∨
    (∃ c rest i, s.cmd = c :: rest ∧ decode c = .ok i ∧ payloadNeed i s ≤ s.din.length ∧
      exec i s.takeCommand = .next t) := by
  unfold step at h
  split at h
  · exact .inl (by simpa using h.symm)
  · next c rest hcmd =>
    split at h
    · next e hd => exact .inr (.inl ⟨c, rest, e, hcmd, hd, by simpa using h.symm⟩)
    · next i hd =>
      split at h
      · next hr => exact .inr (.inr ⟨c, rest, i, hcmd, hd, by simpa [payloadReady] using hr, h⟩)
      · exact .inl (by simpa using h.symm)

end Sys2Proof.Machine
end

