-- ==== Sys2Proof/Laws/Effects.lean ====
section
/-! SUPPORT. Each command that passes its checks is its effect, and what no effect of a command touches. -/

namespace Sys2Proof.Machine

/-- NEW that passes its checks, with its key there. -/
theorem exec_new {klen : Nat} {s : State} (hf : s.fault = false) (h : klen < 48) (hp : klen ≤ s.din.length) :
    exec (.new klen) s = .next (newEffect Config.deck (s.din.take klen) (s.dropDin klen)) := by
  rw [exec_of_pass (i := .new klen) (by rw [examine_new hf, if_neg (by omega)]) hp]
  rfl

/-- ABSORB that passes its checks, with its message there. -/
theorem exec_absorb {len : Nat} {s : State} (hk : s.keyed = true) (hf : s.fault = false) (hp : len ≤ s.din.length) :
    exec (.absorb len) s = .next (absorbEffect Config.deck (s.din.take len) (s.dropDin len)) := by
  rw [exec_of_pass (i := .absorb len) (examine_absorb hf hk) hp]
  rfl

/-- FINALIZE that passes its checks. -/
theorem exec_finalize {ds : Byte} {w off : Nat} {s : State} (hk : s.keyed = true) (hf : s.fault = false)
    (hw : w ≤ 7) (ho : off ≤ 48) :
    exec (.finalize ds w off) s = .next (finalizeEffect Config.deck ds w (Fin.ofNat 49 off) s) := by
  rw [exec_of_pass (by rw [examine_finalize hf hk, if_neg (by omega), if_neg (by omega)]) (Nat.zero_le _)]
  rfl

/-- SQUEEZE that passes its checks. -/
theorem exec_squeeze {n : Nat} {s : State} (hk : s.keyed = true) (hf : s.fault = false) :
    exec (.squeeze n) s = .next (squeezeEffect Config.deck n s) := by
  rw [exec_of_pass (examine_squeeze hf hk) (Nat.zero_le _)]
  rfl

/-- RESTART that passes its checks. -/
theorem exec_restart {s : State} (hk : s.keyed = true) (hf : s.fault = false) :
    exec .restart s = .next (restartEffect s) := by
  rw [exec_of_pass (examine_restart hf hk) (Nat.zero_le _)]
  rfl

/-- The effect of FINALIZE in `Finalized` mode. -/
theorem finalizeEffect_of_finalized (c : Config) (ds : Byte) (w : Nat) (off : Fin 49) {s : State}
    (h : s.mode = .finalized) : finalizeEffect c ds w off s = s := by simp [finalizeEffect, h]

/-- The effect of FINALIZE in `Absorbing` mode. -/
theorem finalizeEffect_of_absorbing (c : Config) (ds : Byte) (w : Nat) (off : Fin 49) {s : State}
    (h : s.mode = .absorbing) : finalizeEffect c ds w off s = finalizeCycle c ds w off s := by
  simp [finalizeEffect, h]

/-- Everything FINALIZE's effect does (R170), field by field. -/
theorem finalizeCycle_eq (c : Config) (ds : Byte) (w : Nat) (off : Fin 49) (s : State) :
    finalizeCycle c ds w off s =
      let a1 := xor12 s.acc (P c (xor12 (leDecode (padBlock s.iblk s.ioff (padByte ds w))) s.imask))
      let m1 := rollLinear (rollLinear s.imask)
      { s with
        imask := m1
        omask := rollNonlinear (P c a1)
        acc := a1
        iblk := zero48
        ioff := 0
        oblk := leEncode (xor12 (P c (P c a1)) m1)
        ooff := off
        mode := .finalized } := by
  simp only [finalizeCycle, State.padInput, State.mpa, State.rollImask, State.clearInput, State.setMode,
    State.deriveOmask, State.nextBlock, State.gen, State.setOoff, State.rollOmask]

/-- The effect of RESTART in `Absorbing` mode. -/
theorem restartEffect_of_absorbing {s : State} (h : s.mode = .absorbing) : restartEffect s = s := by
  simp [restartEffect, h]

/-- FINALIZE leaves `keyed`, the fault and the channels. -/
theorem finalizeEffect_frame (c : Config) (ds : Byte) (w : Nat) (off : Fin 49) (s : State) :
    (finalizeEffect c ds w off s).keyed = s.keyed ∧ (finalizeEffect c ds w off s).fault = s.fault ∧
    (finalizeEffect c ds w off s).fcause = s.fcause ∧ (finalizeEffect c ds w off s).cmd = s.cmd ∧
    (finalizeEffect c ds w off s).din = s.din ∧ (finalizeEffect c ds w off s).dout = s.dout := by
  unfold finalizeEffect
  split
  · exact ⟨rfl, rfl, rfl, rfl, rfl, rfl⟩
  · simp [finalizeCycle]

/-- RESTART leaves the input side, `acc`, `keyed`, the fault and the channels. -/
theorem restartEffect_frame (s : State) :
    restartEffect s =
      { s with
        omask := (restartEffect s).omask
        oblk := (restartEffect s).oblk
        ooff := (restartEffect s).ooff
        mode := (restartEffect s).mode } := by
  unfold restartEffect
  split <;> rfl

/-- No effect of a command touches the fault or the channels `cmd` and `din`, and none clears `keyed`. -/
theorem effect_frame (c : Config) (x : Command) (s : State) :
    (x.effect c s).fault = s.fault ∧ (x.effect c s).fcause = s.fcause ∧ (x.effect c s).cmd = s.cmd ∧
    (x.effect c s).din = s.din ∧ (s.keyed = true → (x.effect c s).keyed = true) := by
  cases x with
  | new _ => exact ⟨rfl, rfl, rfl, rfl, fun _ => rfl⟩
  | absorb m =>
    simp only [Command.effect]
    rw [absorbEffect_frame]
    exact ⟨rfl, rfl, rfl, rfl, id⟩
  | finalize ds w off =>
    obtain ⟨hk, hf, hc, hm, hd, -⟩ := finalizeEffect_frame c ds w (Fin.ofNat 49 off) s
    exact ⟨hf, hc, hm, hd, fun h => hk.trans h⟩
  | squeeze n =>
    simp only [Command.effect]
    rw [squeezeEffect_frame]
    exact ⟨rfl, rfl, rfl, rfl, id⟩
  | restart =>
    simp only [Command.effect]
    rw [restartEffect_frame]
    exact ⟨rfl, rfl, rfl, rfl, id⟩

end Sys2Proof.Machine
end

