-- ==== Sys2Proof/Laws/PerInstr.lean ====
section
/-! SUPPORT. What holds of every command as syntax, one lemma per constructor. -/

namespace Sys2Proof.Laws.OpcodeField

/-- The opcode of each command (30_encoding.md R79, spec/opcode_table.json). -/
def opcode : Instr → Nat
  | .new _ => 0x1
  | .absorb _ => 0x2
  | .finalize _ _ _ => 0x3
  | .squeeze _ => 0x4
  | .restart => 0x5

/-- The word of a well-formed command has the command's opcode in bits 31..28 and zeros in bits 27..24 (R71). -/
def Statement (i : Instr) : Prop :=
  i.wellFormed = true → opcodeOf (encode i) = opcode i ∧ bits (encode i) 27 24 = 0

/-- The two fields of a word given as a number. -/
theorem fields_ofNat (n : Nat) (h : n < 2 ^ 32) :
    opcodeOf (BitVec.ofNat 32 n) = n / 2 ^ 28 ∧ bits (BitVec.ofNat 32 n) 27 24 = n / 2 ^ 24 % 2 ^ 4 := by
  simp only [opcodeOf, bits, BitVec.toNat_ofNat, Nat.mod_eq_of_lt h]
  exact ⟨Nat.mod_eq_of_lt (by omega), trivial⟩

theorem new (klen : Nat) : Statement (.new klen) := by
  intro h
  have hk : klen < 2 ^ 6 := of_decide_eq_true h
  obtain ⟨h1, h2⟩ := fields_ofNat (0x10000000 + klen) (by omega)
  rw [encode_new hk, h1, h2]
  simp only [opcode]
  omega

theorem absorb (len : Nat) : Statement (.absorb len) := by
  intro h
  have hl : len < 2 ^ 24 := of_decide_eq_true h
  obtain ⟨h1, h2⟩ := fields_ofNat (0x20000000 + len) (by omega)
  rw [encode_absorb hl, h1, h2]
  simp only [opcode]
  omega

theorem finalize (ds : Byte) (w off : Nat) : Statement (.finalize ds w off) := by
  intro h
  have hwo : w < 2 ^ 3 ∧ off < 2 ^ 6 := by simpa only [Instr.wellFormed, Bool.and_eq_true, decide_eq_true_eq] using h
  have hd := ds.isLt
  obtain ⟨h1, h2⟩ := fields_ofNat (0x30000000 + off * 2 ^ 11 + w * 2 ^ 8 + ds.toNat) (by omega)
  rw [encode_finalize hwo.1 hwo.2, h1, h2]
  simp only [opcode]
  omega

theorem squeeze (n : Nat) : Statement (.squeeze n) := by
  intro h
  have hn : n < 2 ^ 24 := of_decide_eq_true h
  obtain ⟨h1, h2⟩ := fields_ofNat (0x40000000 + n) (by omega)
  rw [encode_squeeze hn, h1, h2]
  simp only [opcode]
  omega

theorem restart : Statement .restart := fun _ => by decide

end Sys2Proof.Laws.OpcodeField
end

