-- ==== Sys2Proof/Laws/Words.lean ====
section
/-! SUPPORT. The small lemmas of the word, lane and block functions: what each gives at one index. -/

namespace Sys2Proof.Machine

/-- The spec's rotate is the library's (R14). -/
theorem rotl_eq_rotateLeft {n : Nat} (a : Word) (h : n < 32) : rotl a n = a.rotateLeft n := by
  unfold rotl
  rw [BitVec.rotateLeft_def, Nat.mod_eq_of_lt h]

/-- Rotation is linear. -/
theorem rotl_xor {n : Nat} (a b : Word) (h : n < 32) : rotl (a ^^^ b) n = rotl a n ^^^ rotl b n := by
  rw [rotl_eq_rotateLeft _ h, rotl_eq_rotateLeft _ h, rotl_eq_rotateLeft _ h]
  ext i hi
  simp only [BitVec.getElem_rotateLeft, BitVec.getElem_xor]
  split <;> rfl

@[simp] theorem xor12_getElem (s t : Lanes) (i : Nat) (h : i < 12) : (xor12 s t)[i] = s[i] ^^^ t[i] := by
  simp [xor12]

theorem xor12_comm (s t : Lanes) : xor12 s t = xor12 t s := by
  apply Vector.ext
  intro i h
  rw [xor12_getElem _ _ _ h, xor12_getElem _ _ _ h, BitVec.xor_comm]

theorem xor12_assoc (s t u : Lanes) : xor12 (xor12 s t) u = xor12 s (xor12 t u) := by
  apply Vector.ext
  intro i h
  simp only [xor12_getElem _ _ _ h, BitVec.xor_assoc]

@[simp] theorem ofLanes_getElem (f : Fin 3 → Fin 4 → Word) (i : Nat) (h : i < 12) :
    (ofLanes f)[i] = f ⟨i / 4, by omega⟩ ⟨i % 4, by omega⟩ := by
  simp [ofLanes]

@[simp] theorem zero12_getElem (i : Nat) (h : i < 12) : zero12[i] = 0 := by simp [zero12]

@[simp] theorem zero48_getElem (k : Nat) (h : k < 48) : zero48[k] = 0 := by simp [zero48]

@[simp] theorem leDecode_getElem (b : Block) (i : Nat) (h : i < 12) :
    (leDecode b)[i] = wordOfBytes b[4 * i + 3] b[4 * i + 2] b[4 * i + 1] b[4 * i] := by
  simp [leDecode]

/-- Bit `j` of a word of four bytes is bit `j mod 8` of its byte `j / 8` (R140). -/
theorem wordOfBytes_getLsbD (b3 b2 b1 b0 : Byte) (j : Nat) :
    (wordOfBytes b3 b2 b1 b0).getLsbD j =
      if j < 8 then b0.getLsbD j
      else if j < 16 then b1.getLsbD (j - 8)
      else if j < 24 then b2.getLsbD (j - 16)
      else b3.getLsbD (j - 24) := by
  simp only [wordOfBytes, BitVec.getLsbD_cast, BitVec.getLsbD_append]
  split_ifs <;> first | omega | rfl

/-- A word of four bytes as a number (R140). -/
theorem wordOfBytes_toNat (b3 b2 b1 b0 : Byte) :
    (wordOfBytes b3 b2 b1 b0).toNat =
      b0.toNat + 2 ^ 8 * b1.toNat + 2 ^ 16 * b2.toNat + 2 ^ 24 * b3.toNat := by
  have h0 := b0.isLt
  have h1 := b1.isLt
  have h2 := b2.isLt
  simp only [wordOfBytes, BitVec.toNat_cast, BitVec.toNat_append]
  rw [← Nat.shiftLeft_add_eq_or_of_lt h0, ← Nat.shiftLeft_add_eq_or_of_lt h1, ← Nat.shiftLeft_add_eq_or_of_lt h2]
  simp only [Nat.shiftLeft_eq]
  omega

@[simp] theorem leEncode_getElem (w : Lanes) (k : Nat) (h : k < 48) :
    (leEncode w)[k] = (w[k / 4]).extractLsb' (8 * (k % 4)) 8 := by
  simp [leEncode]

@[simp] theorem padKey_getElem (key : List Byte) (i : Nat) (h : i < 48) :
    (padKey key)[i] = if i < key.length then key.getD i 0 else if i = key.length then 0x01 else 0x00 := by
  simp [padKey]

@[simp] theorem padBlock_getElem (iblk : Block) (ioff : Fin 48) (pb : Byte) (i : Nat) (h : i < 48) :
    (padBlock iblk ioff pb)[i] = if i < ioff.val then iblk[i] else if i = ioff.val then pb else 0x00 := by
  rw [padBlock, Vector.getElem_ofFn]
  rfl

/-- The words of a roll: eleven carried over, the new one last (R121, R123). -/
theorem rollShape_toList (s : Lanes) (x : Word) :
    (rollShape s x).toList =
      [s[4], s[5], s[6], s[7], s[8], s[9], s[10], s[11], s[1], s[2], s[3], x] := rfl

/-- Word `i` of a roll (R121, R123). -/
theorem rollShape_getElem (s : Lanes) (x : Word) (i : Nat) (h : i < 12) :
    (rollShape s x)[i] = if h8 : i < 8 then s[i + 4] else if h11 : i < 11 then s[i - 7] else x := by
  interval_cases i <;> simp [rollShape]

/-- A roll of a lane-wise sum is the lane-wise sum of the rolls, if the new word is (R121). -/
theorem rollShape_xor12 (s t : Lanes) (x y : Word) :
    rollShape (xor12 s t) (x ^^^ y) = xor12 (rollShape s x) (rollShape t y) := by
  apply Vector.ext
  intro i h
  simp only [xor12_getElem, rollShape_getElem]
  split_ifs <;> rfl

end Sys2Proof.Machine
end

