-- ==== Sys2Proof/Machine/Published.lean ====
section
/-! DEFINITION. The published permutation and round count, which the spec supplies from general knowledge and marks
so (93_implementation_defined.md G1, G3). PRESUMED (log entry 16): `step` does not use this file;
`Config.deck` stays open. It lets a claim about output VALUES name the `P` it assumes (40_permutation.md R113), and
lets the spec's X6 vectors be checked. -/

namespace Sys2Proof.Machine

/-- G1, theta: parity, then the diffusion term with offsets 5 and 14 and a move by one lane (R107 to R109). -/
def theta (s : Lanes) : Lanes := addDiffusion (diffusion 5 14 1 (parity s)) 0 s

/-- G1, rho-west: plane 1 moved by one lane, plane 2 rotated by 11 bits. -/
def rhoWest (s : Lanes) : Lanes :=
  ofLanes fun y x => if y = 0 then lane s 0 x else if y = 1 then lane s 1 (x - 1) else rotl (lane s 2 x) 11

/-- G1, iota: the round constant into lane 0 of plane 0. -/
def iota (k : Word) (s : Lanes) : Lanes := addDiffusion (fun _ => 0) k s

/-- G1, chi: each plane XORed with the AND of its next plane's complement and the plane after that (R111). -/
def chi (s : Lanes) : Lanes := ofLanes fun y x => lane s y x ^^^ (~~~lane s (y + 1) x &&& lane s (y + 2) x)

/-- G1, rho-east: plane 1 rotated by 1 bit; plane 2 moved by two lanes and rotated by 8 bits (R112). -/
def rhoEast (s : Lanes) : Lanes :=
  ofLanes fun y x => if y = 0 then lane s 0 x else if y = 1 then rotl (lane s 1 x) 1 else rotl (lane s 2 (x - 2)) 8

/-- G1: one round with the constant `k`. -/
def publishedRound (s : Lanes) (k : Word) : Lanes := rhoEast (chi (iota k (rhoWest (theta s))))

/-- G1's constants `c[0..11]` and G3's round count 6: the configuration the spec calls X6 (95_test_vectors.md section
0). -/
def publishedConfig : Config where
  round := publishedRound
  constants := #v[0x00000058, 0x00000038, 0x000003C0, 0x000000D0, 0x00000120, 0x00000014, 0x00000060, 0x0000002C,
    0x00000380, 0x000000F0, 0x000001A0, 0x00000012]
  rounds := Config.defaultRounds

end Sys2Proof.Machine
end

