-- ==== Sys2Proof/Tests/Slice0.lean ====
section
/-! SUPPORT. Our own tests. Expected values are the spec's: 95_test_vectors.md, or worked out by hand from the rule
named. TOY is the fixture of 95_test_vectors.md section 0. Witnesses show that the hypotheses of each obligation can
be met together. -/

namespace Sys2Proof.Tests

open Sys2Proof.Machine

/-! ## WellFormed: one ill-formed command for each check -/

theorem test_wf_new : (Instr.new 63).wellFormed = true ∧ (Instr.new 64).wellFormed = false := by decide
theorem test_wf_absorb :
    (Instr.absorb 16777215).wellFormed = true ∧ (Instr.absorb 16777216).wellFormed = false := by decide
theorem test_wf_finalize_width :
    (Instr.finalize 0 7 0).wellFormed = true ∧ (Instr.finalize 0 8 0).wellFormed = false := by decide
theorem test_wf_finalize_offset :
    (Instr.finalize 0 0 63).wellFormed = true ∧ (Instr.finalize 0 0 64).wellFormed = false := by decide
theorem test_wf_squeeze :
    (Instr.squeeze 16777215).wellFormed = true ∧ (Instr.squeeze 16777216).wellFormed = false := by decide

/-! ## Decode: words from the spec's encodings (95_test_vectors.md section 2.6), bit by bit from R72 to R76 -/

/-- NEW: 0001, 22 zeros, klen = 101111. -/
theorem test_decode_new : decode 0b00010000000000000000000000101111 = .ok (.new 47) := by decide
/-- ABSORB: 0010, 0000, len = 24 bits. -/
theorem test_decode_absorb : decode 0b00100000100000000000000000000011 = .ok (.absorb 8388611) := by decide
/-- FINALIZE: 0011, 0000000000, 0, off = 110000, w = 010, ds = 00000011. -/
theorem test_decode_finalize : decode 0b00110000000000011000001000000011 = .ok (.finalize 0x03 2 48) := by decide
/-- SQUEEZE: 0100, 0000, n = 24 bits. -/
theorem test_decode_squeeze : decode 0b01000000000000000001000000000000 = .ok (.squeeze 4096) := by decide
/-- RESTART: 0101, 28 zeros. -/
theorem test_decode_restart : decode 0b01010000000000000000000000000000 = .ok .restart := by decide
theorem test_decode_illegal :
    [0x10000040, 0x11000000, 0x30020000, 0x50000001, 0x51000000, 0x00000000, 0x60000000, 0xFFFFFFFF].map decode =
      [.error (.reservedBitSet 1), .error (.reservedBitSet 1), .error (.reservedBitSet 3), .error (.reservedBitSet 5),
        .error (.reservedBitSet 5), .error (.reservedOpcode 0), .error (.reservedOpcode 6),
        .error (.reservedOpcode 15)] := by decide
theorem test_encode :
    [Instr.new 47, .absorb 3, .finalize 0xFF 7 32, .squeeze 4096, .restart].map encode =
      [0x1000002F, 0x20000003, 0x300107FF, 0x40001000, 0x50000000] := by decide
theorem test_table_word : decodeTableWord 32 0x30018000 = some (.finalize 0 0 48) ∧ decodeTableWord 32 0 = none := by
  decide

/-! ## Operators and block functions (95_test_vectors.md sections 2.1 to 2.5 and 3) -/

theorem test_rotl : rotl 0xdeadbeef 0 = 0xdeadbeef ∧ rotl 0xdeadbeef 13 = 0xb7ddfbd5 ∧ rotl 1 31 = 0x80000000 := by
  decide

/-- `sB` of 95_test_vectors.md section 2.5. -/
def sB : Lanes := #v[0x80000001, 0xdeadbeef, 0x01234567, 0x89abcdef, 0xe0000003, 0xaaaaaaaa, 0x55555555, 0xffffffff,
  0xf000000f, 0x0badf00d, 0xcafebabe, 0x00000000]

theorem test_roll_linear : rollLinear sB = #v[0xe0000003, 0xaaaaaaaa, 0x55555555, 0xffffffff, 0xf000000f, 0x0badf00d,
    0xcafebabe, 0x00000000, 0xdeadbeef, 0x01234567, 0x89abcdef, 0x8000201e] := by decide
theorem test_roll_nonlinear : rollNonlinear sB = #v[0xe0000003, 0xaaaaaaaa, 0x55555555, 0xffffffff, 0xf000000f,
    0x0badf00d, 0xcafebabe, 0x00000000, 0xdeadbeef, 0x01234567, 0x89abcdef, 0xe0007c34] := by decide

/-- The bytes 01, 02, .., 30 of 95_test_vectors.md section 2.2. -/
def countingBlock : Block := Vector.ofFn fun k => BitVec.ofNat 8 (k.val + 1)

theorem test_le_decode : leDecode countingBlock = #v[0x04030201, 0x08070605, 0x0c0b0a09, 0x100f0e0d, 0x14131211,
    0x18171615, 0x1c1b1a19, 0x201f1e1d, 0x24232221, 0x28272625, 0x2c2b2a29, 0x302f2e2d] := by decide
theorem test_le_encode : (leEncode (zero12.set 0 0x89d5d88d)).toList.take 5 = [0x8d, 0xd8, 0xd5, 0x89, 0x00] := by
  decide

/-- The first `n` of the key bytes 00, 01, 02, .. of 95_test_vectors.md section 0. -/
def keyBytes (n : Nat) : List Byte := (List.range n).map fun k => BitVec.ofNat 8 k

theorem test_pad_key : leDecode (padKey (keyBytes 16)) =
    #v[0x03020100, 0x07060504, 0x0b0a0908, 0x0f0e0d0c, 0x00000001, 0, 0, 0, 0, 0, 0, 0] := by decide
theorem test_pad_key_full : (padKey (keyBytes 47))[46] = 0x2e ∧ (padKey (keyBytes 47))[47] = 0x01 := by decide
theorem test_pad_byte : [padByte 0xff 0, padByte 0x01 1, padByte 0xfc 2, padByte 0xaa 6, padByte 0x80 7] =
    [0x01, 0x03, 0x04, 0x6a, 0x80] := by decide
theorem test_pad_block : (padBlock countingBlock 2 0x07).toList.take 5 = [0x01, 0x02, 0x07, 0x00, 0x00] := by decide

/-- `TOY(s)[i] = rotl(s[(i+1) mod 12], 1) ^ (i+1)`, whatever the round count and the constant. -/
def toy : Config where
  round := fun s _ => Vector.ofFn fun i => rotl (s[(i.val + 1) % 12]'(Nat.mod_lt _ (by decide))) 1 ^^^ BitVec.ofNat 32 (i.val + 1)
  constants := zero12
  rounds := 1

/-- 95_test_vectors.md section 3.1. -/
theorem test_toy : P toy sB = #v[0xbd5b7dde, 0x02468acc, 0x13579bdc, 0xc0000003, 0x55555550, 0xaaaaaaac, 0xfffffff8,
    0xe0000017, 0x175be013, 0x95fd7577, 0x0000000b, 0x0000000f] := by decide
/-- 95_test_vectors.md section 3.2: two rounds use `c[10]` and `c[11]`. -/
theorem test_permute_last_rounds : permute publishedConfig zero12 2 = #v[0x000001b2, 0xc2585c05, 0x00000000, 0x00000000,
    0x00000364, 0x0030be80, 0x0170b800, 0x00000000, 0xb85c0000, 0x00000000, 0x00000000, 0xe00345c2] := by
  decide +kernel
/-- 95_test_vectors.md section 3.2: the PRESUMED published permutation on its all-zero input. -/
theorem test_published_permutation : permute publishedConfig zero12 12 = #v[0x89d5d88d, 0xa963fcbf, 0x1b232d19,
    0xffa5a014, 0x36b18106, 0xafc7c1fe, 0xaee57cbe, 0xa77540bd, 0x2e86e870, 0xfef5b7c9, 0x8b4fadf2, 0x5e4f4062] := by
  decide +kernel

/-! ## One command each, under TOY (95_test_vectors.md sections 5.P1 and 5.P2) -/

/-- Does the outcome lead to a next state with this property? -/
def leadsTo (o : Host.Outcome State Fault Refusal) (p : State → Bool) : Bool :=
  match o with
  | .next t => p t
  | .fault _ => false
  | .refused _ => false

/-- A block after `NEW K16` under TOY (5.P1, after #1), with `din` as given. -/
def toyKeyed (din : List Byte) : State :=
  { State.reset with
    imask := #v[0x0e0c0a09, 0x16141212, 0x1e1c1a1b, 0x00000006, 0x00000005, 0x00000006, 0x00000007, 0x00000008,
      0x00000009, 0x0000000a, 0x0000000b, 0x0604020c]
    keyed := true
    din := din }

/-- The output block of 5.P1, after #3. -/
def toyOutput : Block := #v[0x30, 0x00, 0x00, 0x00, 0x36, 0x00, 0x00, 0x00, 0x24, 0x00, 0x00, 0x00, 0x22, 0x02, 0x04,
  0x06, 0x47, 0x12, 0x14, 0x16, 0x7b, 0x1a, 0x1c, 0x1e, 0x65, 0x00, 0x00, 0x00, 0x4b, 0x2a, 0x4d, 0x8f, 0x57, 0x10,
  0x20, 0x30, 0x6b, 0x43, 0x7b, 0x7b, 0x8f, 0x90, 0xa0, 0xb0, 0x93, 0x70, 0xe0, 0xf0]

/-- The output mask of 5.P1, after #3. -/
def toyOmask : Lanes := #v[0x00000015, 0x00000028, 0x00000033, 0x00000032, 0x00000031, 0x1810082c, 0x3dbda1b3,
  0x58504846, 0x0000001c, 0x0000001f, 0x00000016, 0x0e0fad39]

/-- The block of 5.P1 after #3 on its output side, with the cursor as given. -/
def toyFinal (ooff : Fin 49) : State :=
  { State.reset with
    imask := #v[0x00000009, 0x0000000a, 0x0000000b, 0x0604020c, 0x16141212, 0x1e1c1a1b, 0x00000006, 0x8f4d2a21,
      0x00000006, 0x00000007, 0x00000008, 0x0000a04d]
    omask := toyOmask
    oblk := toyOutput
    ooff := ooff
    mode := .finalized
    keyed := true }

/-- 5.P1 #1: the key is taken and permuted. -/
theorem test_new : leadsTo (newAt toy 16 { State.reset with din := keyBytes 17 }) (fun t =>
    t.imask == (toyKeyed []).imask && t.keyed && t.din == [16]) = true := by decide
/-- P6b: a 48-byte key faults and is not taken. -/
theorem test_new_key_len : leadsTo (newAt toy 48 { State.reset with din := keyBytes 48 }) (fun t =>
    t.status == 0x1c && t.din == keyBytes 48 && t.imask == zero12) = true := by decide
/-- 5.P1 #2: three bytes are buffered. -/
theorem test_absorb_buffers : leadsTo (absorbAt toy 3 (toyKeyed [0x61, 0x62, 0x63])) (fun t =>
    t.iblk.toList.take 4 == [0x61, 0x62, 0x63, 0x00] && t.ioff == 3 && t.din == []) = true := by decide
/-- 5.P2 #3: the 48th byte folds the block and rolls the mask. `MSG100[i] = 7 i + 3`. -/
theorem test_absorb_folds :
    leadsTo (absorbAt toy 47
      { toyKeyed ((List.range 47).map fun k => BitVec.ofNat 8 (7 * (k + 1) + 3)) with
        iblk := zero48.set 0 0x03
        ioff := 1 }) (fun t =>
      t.acc == #v[0x4472681b, 0x9caab042, 0xd8cabca1, 0x1102f4e9, 0x493b2d16, 0x8173655f, 0xb9ab9d98, 0xf1e3d5dd,
          0x281a0de3, 0x6052442a, 0x9482787d, 0x2c3a0018] &&
        t.imask[11] == 0x8f4d2a21 && t.ioff == 0) = true := by decide +kernel
/-- 5.P1 #3. -/
theorem test_finalize :
    leadsTo (finalizeAt toy 0 0 0
      { toyKeyed [] with
        iblk := ((zero48.set 0 0x61).set 1 0x62).set 2 0x63
        ioff := 3 }) (fun t =>
      t.oblk == toyOutput && t.omask == toyOmask && t.imask == (toyFinal 0).imask && t.acc[11] == 0x1eded0dc &&
        t.mode == .finalized) = true := by decide +kernel
/-- P6c: offset 49 faults. -/
theorem test_finalize_offset : leadsTo (finalizeAt toy 0 0 49 (toyKeyed [])) (fun t =>
    t.status == 0x2e && t.mode == .absorbing) = true := by decide
/-- 5.P1 #5: the block end is crossed. -/
theorem test_squeeze_crosses : leadsTo (squeezeAt toy 10 (toyFinal 46)) (fun t =>
    t.dout == [0xe0, 0xf0, 0x58, 0x00, 0x00, 0x00, 0x6e, 0x00, 0x00, 0x00] && t.ooff == 8 &&
      t.omask[11] == 0x000622b7) = true := by decide +kernel
/-- R177 (b): a read that ends at the block's end generates the next block at once. -/
theorem test_squeeze_eager : leadsTo (squeezeAt toy 1 (toyFinal 47)) (fun t =>
    t.dout == [0xf0] && t.ooff == 0 && t.oblk[0] == 0x58) = true := by decide +kernel
/-- 5.P1 #6. -/
theorem test_restart : leadsTo (execRestart (toyFinal 8)) (fun t =>
    t.omask == zero12 && t.oblk == zero48 && t.ooff == 0 && t.status == 0x02 && t.imask == (toyFinal 8).imask) =
    true := by decide
/-- P6a: an unkeyed block faults. -/
theorem test_restart_unkeyed : leadsTo (execRestart State.reset) (fun t => t.status == 0x14) = true := by decide

/-! ## The step -/

/-- From reset: an illegal word reports `ILLEGAL_CMD`, not `NOT_KEYED` (95_test_vectors.md section 6). -/
theorem test_step_illegal : leadsTo (step (State.reset.withFetchWord 32 0x60000000)) (fun t =>
    t.status == 0x0c && t.cmd == []) = true := by decide
/-- NEW of one byte waits for its key and runs when it is there. -/
theorem test_step_waits : step { State.reset with cmd := [0x10000001] } = .next { State.reset with cmd := [0x10000001] } ∧
    leadsTo (step (State.reset.withFetchWord 32 0x10000001)) (fun t => t.keyed && t.cmd == [] && t.din == []) = true :=
  ⟨rfl, by decide⟩
/-- A line of R82's text form. -/
theorem test_read_command : readCommand ("FINALIZE 0x03, 2, 48".toList) = some (.finalize 0x03 2 48) ∧
    readCommand ("ABSORB 61fF".toList) = some (.absorb [0x61, 0xff]) ∧ readCommand ("NEW -".toList) = some (.new []) := by
  decide

/-! ## Witnesses: states and operands that meet the hypotheses of the obligations -/

/-- A keyed block in `Absorbing` mode with `n` bytes on `din` and the cursor at `ioff`. -/
def keyedAt (n : Nat) (ioff : Fin 48) : State :=
  { State.reset with
    keyed := true
    ioff := ioff
    din := List.replicate n 7 }

/-- A keyed block in `Finalized` mode with the cursor at `ooff`. -/
def finalAt (ooff : Fin 49) : State :=
  { State.reset with
    keyed := true
    mode := .finalized
    ooff := ooff }

/-- A faulted block. -/
def faulted (c : Cause) : State :=
  { State.reset with
    fault := true
    fcause := c }

/-- A block with this word next on `cmd`. -/
def withWord (c : Word) (s : State) : State := { s with cmd := c :: s.cmd }

theorem witness_DecodeEncodeAgree :
    [Instr.new 0, .new 63, .absorb 0, .absorb 16777215, .finalize 0xFF 7 63, .finalize 0 0 0, .squeeze 0,
      .squeeze 16777215, .restart].all Instr.wellFormed = true := by decide
theorem witness_LegalWordHasOneMeaning : decode 0x3001FFFF = .ok (.finalize 0xFF 7 63) := by decide
theorem witness_IllegalWordsFault : decode 0x30020000 = .error (.reservedBitSet 3) ∧
    (withWord 0x30020000 (keyedAt 0 0)).cmd = 0x30020000 :: [] ∧
    (withWord 0x30020000 (keyedAt 0 0)).fault = false := by decide
theorem witness_StepRunsDecodedCommand : (withWord 0x20000003 (keyedAt 3 0)).cmd = 0x20000003 :: [] ∧
    decode 0x20000003 = .ok (.absorb 3) ∧ (Instr.absorb 3).wellFormed = true ∧
    payloadNeed (.absorb 3) (withWord 0x20000003 (keyedAt 3 0)) ≤ (withWord 0x20000003 (keyedAt 3 0)).din.length := by
  decide
theorem witness_StepWaits_idle : State.reset.cmd = [] := rfl
theorem witness_StepWaits_payload : (withWord 0x20000003 (keyedAt 2 0)).cmd = 0x20000003 :: [] ∧
    decode 0x20000003 = .ok (.absorb 3) ∧
    (withWord 0x20000003 (keyedAt 2 0)).din.length < payloadNeed (.absorb 3) (withWord 0x20000003 (keyedAt 2 0)) := by
  decide
theorem witness_StatusBits : (keyedAt 0 0).mode = (keyedAt 3 47).mode ∧ (keyedAt 0 0).keyed = (keyedAt 3 47).keyed ∧
    (keyedAt 0 0).fault = (keyedAt 3 47).fault ∧ (keyedAt 0 0).fcause = (keyedAt 3 47).fcause := by decide
theorem witness_PermutePeelsFirstRound : (0 : Nat) < 12 ∧ (11 : Nat) < 12 := by decide
theorem witness_PermuteRejectsMoreThanTwelveRounds : (12 : Nat) < 13 ∧ (12 : Nat) ≤ 12 := by decide
theorem witness_DecodeIsLittleEndian : (0 : Nat) < 12 ∧ (11 : Nat) < 12 := by decide
theorem witness_PadKeyBytes : (keyBytes 0).length < 48 ∧ (keyBytes 47).length < 48 := by decide
theorem witness_DifferentKeysPadDifferently : (keyBytes 47).length < 48 ∧
    padKey (keyBytes 47) = padKey (List.range 47 |>.map fun k => BitVec.ofNat 8 k) := by decide
theorem witness_PadByteBits : (0 : Nat) ≤ 7 ∧ (7 : Nat) ≤ 7 ∧ (7 : Nat) < 8 := by decide
theorem witness_NewLeavesFreshState : (keyedAt 47 5).fault = false ∧ (47 : Nat) < 48 ∧ 47 ≤ (keyedAt 47 5).din.length ∧
    State.reset.fault = false ∧ (0 : Nat) < 48 ∧ 0 ≤ State.reset.din.length ∧ (48 : Nat) ≤ 48 := by decide
theorem witness_KeyOfBlockLengthFaults : State.reset.fault = false ∧ (48 : Nat) ≤ 48 ∧ (finalAt 3).fault = false ∧
    (48 : Nat) ≤ 63 ∧ (keyedAt 47 0).fault = false ∧ 47 ≤ (keyedAt 47 0).din.length := by decide
theorem witness_NewForgetsOldState : State.reset.fault = false ∧ (finalAt 48).fault = false ∧
    State.reset.fcause = (finalAt 48).fcause ∧ State.reset.cmd = (finalAt 48).cmd ∧
    State.reset.din = (finalAt 48).din ∧ State.reset.dout = (finalAt 48).dout ∧ (0 : Nat) < 48 ∧
    exec (.new 0) State.reset = .next (newEffect Config.deck [] State.reset) :=
  ⟨rfl, rfl, rfl, rfl, rfl, rfl, by decide, exec_new rfl (by decide) (by decide)⟩
theorem witness_AbsorbRunsByteLoop : (keyedAt 1 47).keyed = true ∧ (keyedAt 1 47).fault = false ∧
    (keyedAt 1 47).mode = .absorbing ∧ 1 ≤ 1 ∧ 1 ≤ (keyedAt 1 47).din.length ∧
    State.reset.fault = false ∧ State.reset.keyed = false := by decide
theorem witness_AbsorbFoldsWholeBlocks : (keyedAt 49 46).keyed = true ∧ (keyedAt 49 46).fault = false ∧
    (keyedAt 49 46).mode = .absorbing ∧ 1 ≤ 49 ∧ 49 ≤ (keyedAt 49 46).din.length ∧
    ((0 : Fin 48).val < ((keyedAt 49 46).ioff.val + 49) % 48) := by decide
theorem witness_AbsorbSilentNoOp : (finalAt 0).keyed = true ∧ (finalAt 0).fault = false ∧
    (finalAt 0).mode = .finalized ∧ 0 ≤ (finalAt 0).din.length ∧ (keyedAt 0 3).keyed = true ∧
    (keyedAt 0 3).fault = false := by decide
theorem witness_ChunkedAbsorbAgrees : (keyedAt 3 47).keyed = true ∧ (keyedAt 3 47).fault = false ∧
    [1, 0, 2].sum ≤ (keyedAt 3 47).din.length := by decide
theorem witness_FinalizeLeavesFirstBlock : (keyedAt 0 47).keyed = true ∧ (keyedAt 0 47).fault = false ∧
    (keyedAt 0 47).mode = .absorbing ∧ (7 : Nat) ≤ 7 ∧ State.reset.fault = false ∧ State.reset.keyed = false := by
  decide
theorem witness_FinalizePreconditionsAndNoOp : (finalAt 0).keyed = true ∧ (finalAt 0).fault = false ∧ (7 : Nat) < 8 ∧
    ((7 : Nat) ≤ 7 ∧ (48 : Nat) < 49) ∧ ((7 : Nat) ≤ 7 ∧ (48 : Nat) ≤ 48 ∧ (finalAt 0).mode = .finalized) := by decide
theorem witness_DsWidthUnreachableByWords : decode 0x300007FF = .ok (.finalize 0xFF 7 0) ∧
    step (faulted .dsWidth) = .next (faulted .dsWidth) ∧ (faulted .dsWidth).fcause = .dsWidth :=
  ⟨by decide, rfl, rfl⟩
theorem witness_SqueezeRunsWhileLoop : (finalAt 48).keyed = true ∧ (finalAt 48).fault = false ∧
    (finalAt 48).mode = .finalized ∧ 1 ≤ 1 ∧ State.reset.fault = false ∧ State.reset.keyed = false := by decide
theorem witness_SqueezeEmitsStream : (finalAt 47).keyed = true ∧ (finalAt 47).fault = false ∧
    (finalAt 47).mode = .finalized ∧ 1 ≤ 1 := by decide
theorem witness_SqueezeSilentNoOp : ((keyedAt 0 0).keyed = true ∧ (keyedAt 0 0).fault = false ∧
    (keyedAt 0 0).mode = .absorbing) ∧ (finalAt 48).keyed = true ∧ (finalAt 48).fault = false := by decide
theorem witness_ChunkedSqueezeAgrees : (finalAt 48).keyed = true ∧ (finalAt 48).fault = false := by decide
theorem witness_RestartKeepsAccumulatorAndMask : (finalAt 5).keyed = true ∧ (finalAt 5).fault = false ∧
    (finalAt 5).mode = .finalized ∧ (keyedAt 0 5).keyed = true ∧ (keyedAt 0 5).fault = false ∧
    (keyedAt 0 5).mode = .absorbing ∧ State.reset.fault = false ∧ State.reset.keyed = false := by decide
theorem witness_RestartForgetsOutputSide : (keyedAt 0 5).keyed = true ∧ (keyedAt 0 5).fault = false ∧
    (keyedAt 0 5).mode = .absorbing ∧ (7 : Nat) ≤ 7 ∧ (0 : Nat) ≤ 48 ∧ (48 : Nat) ≤ 48 := by decide
theorem witness_CycleClosedForm : (keyedAt 48 0).keyed = true ∧ (keyedAt 48 0).fault = false ∧
    (keyedAt 48 0).mode = .absorbing ∧ (keyedAt 48 0).ioff = 0 ∧ 48 ≤ (keyedAt 48 0).din.length ∧ (7 : Nat) ≤ 7 ∧
    1 ≤ 1 := by decide
theorem witness_NextCycleStartsWhereLastEnded : (keyedAt 0 0).keyed = true ∧ (keyedAt 0 0).fault = false ∧
    (keyedAt 0 0).mode = .absorbing ∧ (keyedAt 0 0).ioff = 0 ∧ 0 ≤ (keyedAt 0 0).din.length ∧ (0 : Nat) ≤ 7 := by
  decide
theorem witness_UnkeyedCommandsFault : State.reset.keyed = false ∧ State.reset.fault = false ∧
    ∀ klen, Instr.absorb 0 ≠ .new klen := ⟨rfl, rfl, nofun⟩
theorem witness_FaultEntryIsPrecise : State.reset.fault = false ∧
    exec .restart State.reset = .next (faulted .notKeyed) ∧ (faulted .notKeyed).fault = true := ⟨rfl, rfl, rfl⟩
theorem witness_FaultedBlockRefusesEverything : (faulted .illegalCmd).fault = true ∧
    step (faulted .illegalCmd) = .next (faulted .illegalCmd) := ⟨rfl, rfl⟩
theorem witness_ExaminationOrder_words : (withWord 0x60000000 State.reset).cmd = 0x60000000 :: [] ∧
    decode 0x60000000 = .error (.reservedOpcode 6) := by decide
theorem witness_ExaminationOrder_fault : payloadNeed (.new 48) (faulted .keyLen) ≤ (faulted .keyLen).din.length ∧
    (faulted .keyLen).fault = true := by decide
theorem witness_ExaminationOrder_unkeyed :
    payloadNeed (.finalize 0 8 49) State.reset ≤ State.reset.din.length ∧ State.reset.fault = false ∧
    State.reset.keyed = false ∧ ∀ klen, Instr.finalize 0 8 49 ≠ .new klen :=
  ⟨by decide, rfl, rfl, nofun⟩
theorem witness_ExaminationOrder_keyLen : payloadNeed (.new 48) State.reset ≤ State.reset.din.length ∧
    State.reset.fault = false ∧ 48 ≤ 48 := by decide
theorem witness_ExaminationOrder_finalize :
    payloadNeed (.finalize 0 8 49) (finalAt 0) ≤ (finalAt 0).din.length ∧
    payloadNeed (.finalize 0 7 49) (finalAt 0) ≤ (finalAt 0).din.length ∧ (finalAt 0).fault = false ∧
    (finalAt 0).keyed = true ∧ (7 : Nat) < 8 ∧ (7 : Nat) ≤ 7 ∧ (48 : Nat) < 49 := by decide
theorem witness_ExaminationOrder_noOp : payloadNeed (.finalize 0 7 48) (finalAt 0) ≤ (finalAt 0).din.length ∧
    (finalAt 0).fault = false ∧ (finalAt 0).keyed = true ∧ legalArgs (.finalize 0 7 48) = true ∧
    silentNoOp (.finalize 0 7 48) (finalAt 0) = true := by decide
theorem witness_ExaminationOrder_effect : payloadNeed (.new 47) (keyedAt 47 0) ≤ (keyedAt 47 0).din.length ∧
    (keyedAt 47 0).fault = false ∧ (keyedAt 47 0).keyed = true ∧ legalArgs (.new 47) = true := by decide
theorem witness_SilentNoOpsChangeNothing : ((finalAt 48).keyed = true ∧ (finalAt 48).fault = false ∧
    (finalAt 48).mode = .finalized ∧ 0 ≤ (finalAt 48).din.length ∧ (7 : Nat) ≤ 7 ∧ (48 : Nat) ≤ 48) ∧
    (keyedAt 0 3).keyed = true ∧ (keyedAt 0 3).fault = false ∧ (keyedAt 0 3).mode = .absorbing := by decide
theorem witness_OnlyResetClearsFault : (faulted .finOffset).fault = true ∧
    step (faulted .finOffset) = .next (faulted .finOffset) ∧ HostEvent.send 0 ≠ .reset :=
  ⟨rfl, rfl, by decide⟩
theorem witness_ModeTransitionTable : (keyedAt 47 0).keyed = true ∧ (keyedAt 47 0).fault = false ∧
    legalArgs (.new 47) = true ∧ payloadLen (.new 47) ≤ (keyedAt 47 0).din.length ∧ (finalAt 48).keyed = true ∧
    (finalAt 48).fault = false ∧ legalArgs (.absorb 0) = true ∧ payloadLen (.absorb 0) ≤ (finalAt 48).din.length ∧
    silentNoOp (.absorb 0) (finalAt 48) = true := by decide
theorem witness_CommandsWriteOnlyTheirRegisters_new :
    exec (.new 0) (keyedAt 1 0) = .next (newEffect Config.deck [] (keyedAt 1 0)) :=
  exec_new rfl (by decide) (by decide)
theorem witness_CommandsWriteOnlyTheirRegisters_absorb :
    exec (.absorb 1) (keyedAt 1 47) = .next (absorbEffect Config.deck [7] ((keyedAt 1 47).dropDin 1)) :=
  exec_absorb rfl rfl (by decide)
theorem witness_CommandsWriteOnlyTheirRegisters_finalize :
    exec (.finalize 0xFF 7 48) (keyedAt 0 3) =
      .next (finalizeEffect Config.deck 0xFF 7 (Fin.ofNat 49 48) (keyedAt 0 3)) :=
  exec_finalize rfl rfl (by decide) (by decide)
theorem witness_CommandsWriteOnlyTheirRegisters_squeeze :
    exec (.squeeze 1) (finalAt 48) = .next (squeezeEffect Config.deck 1 (finalAt 48)) := exec_squeeze rfl rfl
theorem witness_CommandsWriteOnlyTheirRegisters_restart :
    exec .restart (finalAt 48) = .next (restartEffect (finalAt 48)) := exec_restart rfl rfl
theorem witness_PayloadAccounting :
    exec (.squeeze 1) (finalAt 48) = .next (squeezeEffect Config.deck 1 (finalAt 48)) := exec_squeeze rfl rfl

/-- A step that runs a command that passes its checks on a state with an empty `cmd`. -/
theorem step_withWord {c : Word} {i : Instr} {s t : State} (hc : s.cmd = []) (hd : decode c = .ok i)
    (hp : payloadNeed i (withWord c s) ≤ s.din.length) (he : exec i s = .next t) : step (withWord c s) = .next t := by
  have e : (withWord c s).takeCommand = s := by
    cases s
    simp only at hc
    subst hc
    rfl
  have h : step (withWord c s) = if payloadReady i (withWord c s) then exec i (withWord c s).takeCommand
      else .next (withWord c s) := by
    unfold step
    simp only [withWord, hd]
  rw [h, e, if_pos (show payloadReady i (withWord c s) = true from decide_eq_true hp), he]

theorem witness_OutputOnlyFromEffectiveSqueeze :
    step (withWord 0x40000001 (finalAt 48)) = .next (squeezeEffect Config.deck 1 (finalAt 48)) ∧
    (squeezeEffect Config.deck 1 (finalAt 48)).dout ≠ [] :=
  ⟨step_withWord rfl (i := .squeeze 1) (by decide) (by decide) (exec_squeeze rfl rfl), by
    rw [squeezeEffect_of_finalized _ _ rfl, squeezeLoop, squeezeLoop]
    rcases squeezeByte_cases Config.deck (finalAt 48) with ⟨h, e⟩ | ⟨_, e⟩
    · exact absurd h (by decide)
    · rw [e]
      rcases emitAt_cases Config.deck 0 ((finalAt 48).nextBlock Config.deck 0) with ⟨_, e⟩ | ⟨_, e⟩ <;> rw [e] <;> simp⟩
theorem witness_KeyedOnlyByNew :
    step (withWord 0x10000000 State.reset) = .next (newEffect Config.deck [] State.reset) ∧
    State.reset.keyed = false ∧ (newEffect Config.deck [] State.reset).keyed = true ∧
    step (finalAt 0) = .next (finalAt 0) ∧ (finalAt 0).keyed = true :=
  ⟨step_withWord rfl (i := .new 0) (by decide) (by decide) (exec_new rfl (by decide) (by decide)), rfl, rfl, rfl, rfl⟩
theorem witness_SpentCursorOnlyFromFinalize :
    step (withWord 0x30018000 (keyedAt 0 0)) =
      .next (finalizeEffect Config.deck 0 0 (Fin.ofNat 49 48) (keyedAt 0 0)) ∧
    (finalizeEffect Config.deck 0 0 (Fin.ofNat 49 48) (keyedAt 0 0)).ooff.val = 48 ∧ (keyedAt 0 0).ooff.val ≠ 48 :=
  ⟨step_withWord rfl (i := .finalize 0 0 48) (by decide) (by decide) (exec_finalize rfl rfl (by decide) (by decide)),
    by rw [finalizeEffect_of_absorbing _ _ _ _ rfl, finalizeCycle_eq]; rfl, by decide⟩
theorem witness_EveryStepKeepsInvariant : BlockInv (withWord 0x50000000 State.reset) ∧
    step (withWord 0x50000000 State.reset) = .next (faulted .notKeyed) :=
  ⟨⟨by decide, by decide, fun _ => by decide, fun _ => by decide, nofun, nofun⟩, rfl⟩
theorem witness_ReachableStatesMeetInvariant : Reachable (State.reset.host (.send 0x50000000)) :=
  .host .reset (.send 0x50000000)
theorem witness_BytesAboveCursorNeverMatter :
    agreeBelowCursor (withWord 0x50000000 (keyedAt 0 3)) { withWord 0x50000000 (keyedAt 0 3) with iblk := zero48.set 3 9 } ∧
    step (withWord 0x50000000 (keyedAt 0 3)) = .next (keyedAt 0 3) :=
  ⟨⟨rfl, by decide⟩, rfl⟩
theorem witness_WordsRunAbstractCommands :
    (∀ x ∈ [Command.new [5], .absorb [], .squeeze 0], x.operands.wellFormed = true) ∧
    [0x10000001, 0x20000000, 0x40000000, 0x50000000] =
      [Command.new [5], .absorb [], .squeeze 0].map (fun x => encode x.operands) ++ [0x50000000] ∧
    [5, 6] = [Command.new [5], .absorb [], .squeeze 0].flatMap Command.payload ++ [6] := by decide
theorem witness_InstancesShareNoState : stepInstance 1 [finalAt 3, State.reset, faulted .keyLen] =
    .next [finalAt 3, State.reset, faulted .keyLen] ∧
    [finalAt 3, State.reset, faulted .keyLen][1]? = some State.reset ∧ 0 ≠ 1 :=
  ⟨rfl, rfl, by decide⟩

end Sys2Proof.Tests
end

section
/-! The status view (10_state.md R34): one lemma per field of `STATUS`, read off the concatenation that defines it. -/

namespace Sys2Proof.Machine

theorem Mode.getLsbD_bit (m : Mode) : m.bit.getLsbD 0 = decide (m = .finalized) := by
  cases m <;> rfl

namespace State

section
variable (s : State)

theorem getLsbD_status_mode : s.status.getLsbD 0 = decide (s.mode = .finalized) := by
  rw [status, BitVec.getLsbD_append, if_pos Nat.zero_lt_one, Mode.getLsbD_bit]

theorem getLsbD_status_keyed : s.status.getLsbD 1 = s.keyed := by
  rw [status, BitVec.getLsbD_append, if_neg (by decide), BitVec.getLsbD_append, if_pos (by decide),
    BitVec.getLsbD_ofBool]
  rfl

theorem getLsbD_status_fault : s.status.getLsbD 2 = s.fault := by
  rw [status, BitVec.getLsbD_append, if_neg (by decide), BitVec.getLsbD_append, if_neg (by decide),
    BitVec.getLsbD_append, if_pos (by decide), BitVec.getLsbD_ofBool]
  rfl

/-- From bit 3 on, `STATUS` holds the cause's code under the two hardwired zeros: the three flags lie below. -/
theorem extractLsb'_status_above_flags (k len : Nat) :
    s.status.extractLsb' (k + 3) len = (0#2 ++ s.fcause.code).extractLsb' k len :=
  calc s.status.extractLsb' (k + 3) len
    _ = (0#2 ++ s.fcause.code ++ BitVec.ofBool s.fault ++ BitVec.ofBool s.keyed).extractLsb' (k + 2) len :=
      BitVec.extractLsb'_append_eq_of_le (Nat.le_add_left 1 (k + 2))
    _ = (0#2 ++ s.fcause.code ++ BitVec.ofBool s.fault).extractLsb' (k + 1) len :=
      BitVec.extractLsb'_append_eq_of_le (Nat.le_add_left 1 (k + 1))
    _ = (0#2 ++ s.fcause.code).extractLsb' k len :=
      BitVec.extractLsb'_append_eq_of_le (Nat.le_add_left 1 k)

theorem extractLsb'_status_fcause : s.status.extractLsb' 3 3 = s.fcause.code :=
  (s.extractLsb'_status_above_flags 0 3).trans BitVec.extractLsb'_append_eq_right

theorem extractLsb'_status_hardwired : s.status.extractLsb' 6 2 = 0 :=
  (s.extractLsb'_status_above_flags 3 2).trans BitVec.extractLsb'_append_eq_left

end

/-- `STATUS` is a function of these four alone, so it exposes no mask, accumulator, buffer or cursor bit (R34). -/
theorem status_congr {s t : State} (hmode : s.mode = t.mode) (hkeyed : s.keyed = t.keyed)
    (hfault : s.fault = t.fault) (hcause : s.fcause = t.fcause) : s.status = t.status := by
  rw [status, status, hmode, hkeyed, hfault, hcause]

end State

/-- Settles O9: the layout field by field, the non-exposure by congruence, the codes (R201) by evaluation. -/
theorem statusBits : Obligations.StatusBits := by
  refine ⟨fun s => ?layout, fun _ _ => State.status_congr, ?codes⟩
  case layout =>
    exact ⟨s.getLsbD_status_mode, s.getLsbD_status_keyed, s.getLsbD_status_fault, s.extractLsb'_status_fcause,
      s.extractLsb'_status_hardwired⟩
  case codes => rfl

end Sys2Proof.Machine
end

section
/-! The reset input (20_memory.md R54). -/

namespace Sys2Proof.Machine

@[simp] theorem State.host_reset (s : State) : s.host .reset = State.reset := rfl

theorem State.status_reset : State.reset.status = 0x00 := by decide

/-- Settles O8: whatever the state was, the reset input answers the one reset state. -/
theorem resetInputClearsEverything : Obligations.ResetInputClearsEverything :=
  fun s => ⟨s.host_reset, (congrArg State.status s.host_reset).trans State.status_reset⟩

end Sys2Proof.Machine
end

section
/-! The accounting of `din` and `dout` (20_memory.md R67): how many bytes an effect emits, what a command that answers
a next state has taken, and what it has emitted. -/

namespace Sys2Proof.Machine

theorem emitAt_dout (c : Config) (k : Fin 48) (s : State) : (emitAt c k s).dout = s.dout ++ [s.oblk[k]] := by
  rcases emitAt_cases c k s with ⟨_, h⟩ | ⟨_, h⟩ <;> rw [h]

/-- At every cursor one byte goes out; at `ooff = 48` it comes from the block generated first (R177). -/
theorem squeezeByte_dout (c : Config) (s : State) : ∃ b : Byte, (squeezeByte c s).dout = s.dout ++ [b] := by
  rcases squeezeByte_cases c s with ⟨_, h⟩ | ⟨_, h⟩ <;> rw [h, emitAt_dout]
  case inl => exact ⟨_, rfl⟩
  case inr => exact ⟨_, by rw [State.nextBlock_dout]⟩

theorem squeezeLoop_dout (c : Config) (n : Nat) (s : State) :
    ∃ out : List Byte, out.length = n ∧ (squeezeLoop c n s).dout = s.dout ++ out := by
  induction n generalizing s with
  | zero => exact ⟨[], rfl, (List.append_nil _).symm⟩
  | succ n ih =>
    obtain ⟨b, hb⟩ := squeezeByte_dout c s
    obtain ⟨out, hlen, hout⟩ := ih (squeezeByte c s)
    exact ⟨b :: out, congrArg Nat.succ hlen, by rw [squeezeLoop, hout, hb, List.append_assoc, List.singleton_append]⟩

theorem squeezeEffect_dout (c : Config) (n : Nat) (s : State) :
    ∃ out : List Byte, out.length = emitted (.squeeze n) s ∧ (squeezeEffect c n s).dout = s.dout ++ out := by
  cases hm : s.mode with
  | absorbing =>
    rw [squeezeEffect_of_absorbing c n hm]
    exact ⟨[], by simp [emitted, hm], (List.append_nil _).symm⟩
  | finalized =>
    rw [squeezeEffect_of_finalized c n hm, emitted, if_pos hm]
    exact squeezeLoop_dout c n s

/-- The effect of a command appends as many bytes to `dout` as `emitted` says, whatever its payload. -/
theorem effect_dout (c : Config) (bs : List Byte) (i : Instr) (s : State) :
    ∃ out : List Byte, out.length = emitted i s ∧ ((Command.assemble bs i).effect c s).dout = s.dout ++ out := by
  cases i with
  | new _ => exact ⟨[], rfl, (List.append_nil _).symm⟩
  | absorb _ =>
    refine ⟨[], rfl, ?_⟩
    rw [List.append_nil, Command.assemble, Command.effect, absorbEffect_frame]
  | finalize ds w off =>
    obtain ⟨-, -, -, -, -, hdout⟩ := finalizeEffect_frame c ds w (Fin.ofNat 49 off) s
    exact ⟨[], rfl, hdout.trans (List.append_nil _).symm⟩
  | squeeze n => exact squeezeEffect_dout c n s
  | restart =>
    refine ⟨[], rfl, ?_⟩
    rw [List.append_nil, Command.assemble, Command.effect, restartEffect_frame]

/-- How many bytes a command emits depends on the mode alone, so taking the payload does not change it. -/
@[simp] theorem emitted_dropDin (i : Instr) (k : Nat) (s : State) : emitted i (s.dropDin k) = emitted i s := by
  cases i <;> rfl

/-- A command emits either as an effective SQUEEZE, of exactly its count, or nothing. -/
theorem emitted_cases (i : Instr) (s : State) :
    (∃ n, i = .squeeze n ∧ emitted i s = n ∧ s.mode = .finalized) ∨
    (emitted i s = 0 ∧ ∀ n, i = .squeeze n → s.mode = .absorbing) := by
  cases i with
  | squeeze n =>
    cases hm : s.mode with
    | absorbing => exact .inr ⟨by simp [emitted, hm], fun _ _ => rfl⟩
    | finalized => exact .inl ⟨n, rfl, by simp [emitted, hm], rfl⟩
  | new _ => exact .inr ⟨rfl, nofun⟩
  | absorb _ => exact .inr ⟨rfl, nofun⟩
  | finalize _ _ _ => exact .inr ⟨rfl, nofun⟩
  | restart => exact .inr ⟨rfl, nofun⟩

/-- A command takes its announced payload unless the block was or became faulted: the effect itself touches neither
`fault` nor `din`, so a silent no-op takes it too. -/
theorem exec_din {i : Instr} {s t : State} (h : exec i s = .next t) :
    t.din = s.din.drop (if s.fault = true ∨ t.fault = true then 0 else payloadLen i) := by
  rcases exec_next_cases h with ⟨hf, rfl⟩ | ⟨c, -, rfl⟩ | ⟨hv, -, rfl⟩
  case inl => simp [hf]
  case inr.inl => simp
  case inr.inr =>
    obtain ⟨hf, -⟩ := examine_pass hv
    obtain ⟨hfault, -, -, hdin, -⟩ := effect_frame Config.deck
      (Command.assemble (s.din.take (payloadLen i)) i) (s.dropDin (payloadLen i))
    simp [hfault, hdin, hf]

/-- What a command that answers a next state has emitted: as many bytes as `emitted` says where it passed its
examination, nothing where it was refused or faulted. -/
theorem exec_dout {i : Instr} {s t : State} (h : exec i s = .next t) :
    ∃ out : List Byte, t.dout = s.dout ++ out ∧
      ((examine i s = .pass ∧ out.length = emitted i s) ∨ (examine i s ≠ .pass ∧ out = [])) := by
  rcases exec_next_cases h with ⟨hf, rfl⟩ | ⟨c, hv, rfl⟩ | ⟨hv, -, rfl⟩
  case inl => exact ⟨[], (List.append_nil _).symm, .inr ⟨by rw [examine_of_fault hf]; nofun, rfl⟩⟩
  case inr.inl => exact ⟨[], (List.append_nil _).symm, .inr ⟨by rw [hv]; nofun, rfl⟩⟩
  case inr.inr =>
    obtain ⟨out, hlen, hout⟩ := effect_dout Config.deck (s.din.take (payloadLen i)) i (s.dropDin (payloadLen i))
    exact ⟨out, hout, .inl ⟨hv, hlen.trans (emitted_dropDin i _ s)⟩⟩

/-- Settles O50: the `din` side by `exec_din`; the `dout` side by whether the command passed its examination, and if
so whether it is an effective SQUEEZE. -/
theorem payloadAccounting : Obligations.PayloadAccounting := by
  intro i s t h
  obtain ⟨out, hout, ⟨hv, hlen⟩ | ⟨hv, hnil⟩⟩ := exec_dout h
  case inl =>
    refine ⟨exec_din h, out, hout, ?_⟩
    obtain ⟨hf, hkeyed⟩ := examine_pass hv
    rcases emitted_cases i s with ⟨n, rfl, hn, hm⟩ | ⟨hzero, habs⟩
    · have hk : s.keyed = true := hkeyed.resolve_right nofun
      exact .inl ⟨n, rfl, hlen.trans hn, hk, hf, hm⟩
    · exact .inr ⟨List.eq_nil_of_length_eq_zero (hlen.trans hzero), fun n hi _ _ => .inl (habs n hi)⟩
  case inr =>
    refine ⟨exec_din h, out, hout, .inr ⟨hnil, ?_⟩⟩
    rintro n rfl hk hf
    exact absurd (examine_squeeze hf hk) hv

end Sys2Proof.Machine
end

section
/-! Illegal words (30_encoding.md R80): which words the decoder refuses, and what a step does with one. -/

namespace Sys2Proof

/-- A number is a given multiple of `2^j` exactly when its part from bit `j` up is that multiplier and its
low `j` bits are zero. -/
theorem eq_mul_two_pow_iff (m v j : Nat) : m = v * 2 ^ j ↔ m / 2 ^ j = v ∧ m % 2 ^ j = 0 := by
  constructor
  · rintro rfl
    exact ⟨Nat.mul_div_cancel v (Nat.two_pow_pos j), Nat.mul_mod_left v _⟩
  · rintro ⟨rfl, hlow⟩
    exact (Nat.div_mul_cancel (Nat.dvd_of_mod_eq_zero hlow)).symm

/-- The high byte of a word is an opcode over four zeros, read by fields (R71). -/
theorem highByte_eq_iff (c : Word) (op : Nat) :
    c.toNat / 2 ^ 24 = op * 2 ^ 4 ↔ opcodeOf c = op ∧ bits c 27 24 = 0 := by
  have hc := c.isLt
  simp only [opcodeOf, bits]
  omega

/-- A pattern of R78, whose mask is the bits from `k` up, fixes three fields: the opcode, the zeros of bits 27..24,
and the must-be-zero bits from 23 down to `k`. -/
theorem pattern_iff_fields (c : Word) (op : Nat) {k : Nat} (hk : k ≤ 24) :
    c.toNat / 2 ^ k * 2 ^ k = op * 2 ^ 28 ↔
      opcodeOf c = op ∧ bits c 27 24 = 0 ∧ c.toNat / 2 ^ k % 2 ^ (24 - k) = 0 := by
  have hpow : op * 2 ^ 28 = op * 2 ^ 4 * 2 ^ (24 - k) * 2 ^ k := by
    rw [Nat.mul_assoc, ← Nat.pow_add, Nat.sub_add_cancel hk, Nat.mul_assoc, ← Nat.pow_add]
  have hhigh : c.toNat / 2 ^ k / 2 ^ (24 - k) = c.toNat / 2 ^ 24 := by
    rw [Nat.div_div_eq_div_mul, ← Nat.pow_add, Nat.add_sub_cancel' hk]
  rw [hpow, Nat.mul_left_inj (Nat.two_pow_pos k).ne', eq_mul_two_pow_iff, hhigh, highByte_eq_iff, and_assoc]

/-- With a 24-bit operand the format has no must-be-zero bit below the high byte (R73, R75). -/
theorem pattern_iff_highByte (c : Word) (op : Nat) :
    c.toNat / 2 ^ 24 * 2 ^ 24 = op * 2 ^ 28 ↔ opcodeOf c = op ∧ bits c 27 24 = 0 := by
  simpa only [Nat.sub_self, Nat.pow_zero, Nat.mod_one, and_true] using pattern_iff_fields c op (k := 24) le_rfl

/-- The decoder refuses a word exactly when none of the five patterns of R78 fits it. -/
theorem exists_decode_error_iff_no_pattern (c : Word) :
    (∃ e, decode c = .error e) ↔
      ¬(opcodeOf c = 1 ∧ bits c 27 24 = 0 ∧ bits c 23 6 = 0) ∧
      ¬(opcodeOf c = 2 ∧ bits c 27 24 = 0) ∧
      ¬(opcodeOf c = 3 ∧ bits c 27 24 = 0 ∧ bits c 23 17 = 0) ∧
      ¬(opcodeOf c = 4 ∧ bits c 27 24 = 0) ∧
      ¬(opcodeOf c = 5 ∧ bits c 27 24 = 0 ∧ bits c 23 0 = 0) := by
  have hnew : c.toNat / 2 ^ 6 * 2 ^ 6 = 0x10000000 ↔ opcodeOf c = 1 ∧ bits c 27 24 = 0 ∧ bits c 23 6 = 0 :=
    pattern_iff_fields c 1 (k := 6) (by decide)
  have habsorb : c.toNat / 2 ^ 24 * 2 ^ 24 = 0x20000000 ↔ opcodeOf c = 2 ∧ bits c 27 24 = 0 :=
    pattern_iff_highByte c 2
  have hfinalize : c.toNat / 2 ^ 17 * 2 ^ 17 = 0x30000000 ↔ opcodeOf c = 3 ∧ bits c 27 24 = 0 ∧ bits c 23 17 = 0 :=
    pattern_iff_fields c 3 (k := 17) (by decide)
  have hsqueeze : c.toNat / 2 ^ 24 * 2 ^ 24 = 0x40000000 ↔ opcodeOf c = 4 ∧ bits c 27 24 = 0 :=
    pattern_iff_highByte c 4
  have hrestart : c.toNat = 0x50000000 ↔ opcodeOf c = 5 ∧ bits c 27 24 = 0 ∧ bits c 23 0 = 0 :=
    Iff.trans (by omega) (pattern_iff_fields c 5 (Nat.zero_le 24))
  have hdecode := decode_ofNat c.isLt
  rw [BitVec.ofNat_toNat, BitVec.setWidth_eq] at hdecode
  rw [← hnew, ← habsorb, ← hfinalize, ← hsqueeze, ← hrestart, hdecode]
  constructor
  · rintro ⟨e, he⟩
    split_ifs at he with h1 h2 h3 h4 h5
    exact ⟨h1, h2, h3, h4, h5⟩
  · rintro ⟨h1, h2, h3, h4, h5⟩
    rw [if_neg h1, if_neg h2, if_neg h3, if_neg h4, if_neg h5]
    exact ⟨_, rfl⟩

/-- R80's illegal set: a reserved opcode, or a one among the must-be-zero bits of the word's format. -/
theorem exists_decode_error_iff (c : Word) :
    (∃ e, decode c = .error e) ↔
      (opcodeOf c = 0 ∨ 6 ≤ opcodeOf c) ∨ bits c 27 24 ≠ 0 ∨ (opcodeOf c = 1 ∧ bits c 23 6 ≠ 0) ∨
        (opcodeOf c = 3 ∧ bits c 23 17 ≠ 0) ∨ (opcodeOf c = 5 ∧ bits c 23 0 ≠ 0) := by
  rw [exists_decode_error_iff_no_pattern]
  by_cases hzero : bits c 27 24 = 0
  case neg => simp [hzero]
  case pos =>
    generalize opcodeOf c = op
    match op with
    | 0 | 1 | 2 | 3 | 4 | 5 => simp [hzero]
    | op + 6 => simp [hzero]

end Sys2Proof

namespace Sys2Proof.Machine

theorem State.takeCommand_of_cons {s : State} {c : Word} {rest : List Word} (hcmd : s.cmd = c :: rest) :
    s.takeCommand = { s with cmd := rest } := by
  rw [takeCommand, hcmd, List.tail_cons]

/-- A step that meets an illegal word takes it and treats it as `illegalCommand` says, faulted or not. -/
theorem step_of_decode_error {s : State} {c : Word} {rest : List Word} {e : Illegal} (hcmd : s.cmd = c :: rest)
    (hdecode : decode c = .error e) : step s = .next (illegalCommand s.takeCommand) := by
  unfold step
  simp only [hcmd, hdecode]

/-- Settles O4: the illegal set from the patterns read by fields; the step by the fault entry of an illegal word. -/
theorem illegalWordsFault : Obligations.IllegalWordsFault := by
  refine ⟨exists_decode_error_iff, fun c e rest s hdecode hcmd hfault => ?_⟩
  calc step s
    _ = .next (illegalCommand s.takeCommand) := step_of_decode_error hcmd hdecode
    _ = .next (s.takeCommand.raiseFault .illegalCmd) := by rw [illegalCommand_of_ok (s.takeCommand_fault.trans hfault)]
    _ = .next { s with cmd := rest, fault := true, fcause := .illegalCmd } := by
      rw [State.takeCommand_of_cons hcmd, State.raiseFault]

end Sys2Proof.Machine
end

section
/-! The checked permutation (40_permutation.md R101): a count that is a `Fin 13` passes the check, any other is the
violation `ROUNDS`. -/

namespace Sys2Proof.Machine

section
variable (c : Config) (s : Lanes)

/-- A count of the type that `permute` takes is never rejected: the block's own count is one (R105). -/
@[simp] theorem permuteChecked_val (R : Fin 13) : permuteChecked c s R.val = .ok (permute c s R) :=
  dif_pos R.isLt

theorem permuteChecked_of_twelve_lt {R : Nat} (h : 12 < R) : permuteChecked c s R = .error .rounds :=
  dif_neg (Nat.not_lt_of_ge h)

end

/-- Settles O13: the two sides of the check at 12, and the block's own count, which its type keeps on the good side. -/
theorem permuteRejectsMoreThanTwelveRounds : Obligations.PermuteRejectsMoreThanTwelveRounds := by
  refine fun c s R => ⟨?above, ?upTo, ?ownCount⟩
  case above => exact permuteChecked_of_twelve_lt c s
  case upTo => exact fun h => permuteChecked_val c s ⟨R, Nat.lt_succ_of_le h⟩
  case ownCount => exact permuteChecked_val c s c.rounds

end Sys2Proof.Machine
end

section
/-! The nonlinear roll (41_rolling.md R124): its new word, and by how much the roll of a lane-wise sum misses the sum of
the rolls. -/

namespace Sys2Proof.Machine

/-- The new word is word 11 (R123). -/
theorem rollNonlinear_getElem_eleven (s : Lanes) :
    (rollNonlinear s)[11] = (s[4] &&& s[8]) ^^^ rotl s[0] 5 ^^^ rotl s[4] 13 ^^^ 0x00000007 := rfl

/-- The other eleven words are those of any roll (R121). -/
theorem rollNonlinear_eq_rollShape (s : Lanes) : rollNonlinear s = rollShape s (rollNonlinear s)[11] := rfl

/-- The twelve words, the new one in the library's rotation. -/
theorem rollNonlinear_toList (s : Lanes) :
    (rollNonlinear s).toList =
      [s[4], s[5], s[6], s[7], s[8], s[9], s[10], s[11], s[1], s[2], s[3],
        (s[4] &&& s[8]) ^^^ s[0].rotateLeft 5 ^^^ s[4].rotateLeft 13 ^^^ 0x00000007] := by
  rw [rollNonlinear_eq_rollShape, rollShape_toList, rollNonlinear_getElem_eleven, rotl_eq_rotateLeft _ (by decide),
    rotl_eq_rotateLeft _ (by decide)]

theorem rollShape_right_inj (s : Lanes) {x y : Word} : rollShape s x = rollShape s y ↔ x = y :=
  ⟨congrArg fun t : Lanes => t[11], congrArg (rollShape s)⟩

/-- The AND of two sums has two mixed products that the sum of the ANDs has not. -/
theorem xor_and_xor (a b c d : Word) :
    (a ^^^ b) &&& (c ^^^ d) = (a &&& c) ^^^ (b &&& d) ^^^ ((a &&& d) ^^^ (b &&& c)) := by
  ext i
  simp only [BitVec.getElem_and, BitVec.getElem_xor, Bool.and_xor_distrib_left, Bool.and_xor_distrib_right,
    Bool.xor_assoc, Bool.xor_left_comm, Bool.xor_comm]

/-- The new word of a sum is off by the mixed products of the AND and by the constant, which the sum of the two new
words cancels. -/
theorem rollNonlinear_xor12_getElem_eleven (a b : Lanes) :
    (rollNonlinear (xor12 a b))[11] =
      ((rollNonlinear a)[11] ^^^ (rollNonlinear b)[11]) ^^^
        (((a[4] &&& b[8]) ^^^ (b[4] &&& a[8])) ^^^ 0x00000007) := by
  have hconst : (0x00000007 : Word) = 0x00000007 ^^^ 0x00000007 ^^^ 0x00000007 := by decide
  simp only [rollNonlinear_getElem_eleven, xor12_getElem]
  rw [rotl_xor _ _ (by decide), rotl_xor _ _ (by decide), xor_and_xor]
  conv_lhs => rw [hconst]
  ac_rfl

/-- The roll is additive only where the mixed products of the AND cancel the constant. -/
theorem rollNonlinear_xor12_iff (a b : Lanes) :
    rollNonlinear (xor12 a b) = xor12 (rollNonlinear a) (rollNonlinear b) ↔
      (a[4] &&& b[8]) ^^^ (b[4] &&& a[8]) = 0x00000007 := by
  have hoff (z d : Word) : z ^^^ d = z ↔ d = 0 := by
    rw [← BitVec.xor_right_inj z (x := d), BitVec.ofNat_eq_ofNat, BitVec.xor_zero]
  rw [rollNonlinear_eq_rollShape (xor12 a b), rollNonlinear_eq_rollShape a, rollNonlinear_eq_rollShape b,
    ← rollShape_xor12, rollShape_right_inj, rollNonlinear_xor12_getElem_eleven]
  exact (hoff _ _).trans BitVec.xor_eq_zero_iff

/-- Settles O16: the words by `rollNonlinear_toList`. The two states that break linearity have a mixed product in
bit 3, which the constant has clear, so it is the AND that breaks it. -/
theorem rollNonlinearWords : Obligations.RollNonlinearWords := by
  refine ⟨rollNonlinear_toList, ⟨zero12.set 4 0x8, zero12.set 8 0x8, ?notLinear⟩, ?zeroState⟩
  case notLinear =>
    rw [Ne, rollNonlinear_xor12_iff]
    decide
  case zeroState =>
    rw [rollNonlinear_toList]
    simp only [zero12_getElem]
    decide

end Sys2Proof.Machine
end

section
/-! The codec, the paddings and the per-block steps (42_block_helpers.md R140, R144 to R146, R148). -/

namespace Sys2Proof.Machine

/-- Settles O17: each word is read off its four bytes, and its value is that of a word of four bytes. -/
theorem decodeIsLittleEndian : Obligations.DecodeIsLittleEndian := by
  intro b i h
  rw [leDecode_getElem b i h, wordOfBytes_toNat]

/-- The mask of R144's pseudocode has the low `w` bits set. -/
theorem toNat_twoPow_sub_one {w : Nat} (hw : w < 8) : (BitVec.twoPow 8 w - 1#8).toNat = 2 ^ w - 1 := by
  have htop : (BitVec.twoPow 8 w).toNat = 2 ^ w := BitVec.toNat_twoPow_of_lt hw
  have hle : 1#8 ≤ BitVec.twoPow 8 w := by
    rw [BitVec.le_def, htop]
    exact Nat.one_le_two_pow
  rw [BitVec.toNat_sub_of_le hle, htop]
  rfl

/-- The padding byte as a number: the one at position `w` stands above the part of `ds` that the mask keeps, so the
OR of the two is their sum (R144). -/
theorem padByte_toNat (ds : Byte) {w : Nat} (hw : w ≤ 7) : (padByte ds w).toNat = 2 ^ w + ds.toNat % 2 ^ w := by
  have hw8 : w < 8 := Nat.lt_succ_of_le hw
  have hlow : ds.toNat % 2 ^ w < 2 ^ w := Nat.mod_lt _ (Nat.two_pow_pos w)
  calc (padByte ds w).toNat
    _ = (BitVec.twoPow 8 w ||| (ds &&& (BitVec.twoPow 8 w - 1#8))).toNat := by rw [padByte, BitVec.twoPow_eq]
    _ = 2 ^ w ||| (ds.toNat &&& (2 ^ w - 1)) := by
      rw [BitVec.toNat_or, BitVec.toNat_and, toNat_twoPow_sub_one hw8, BitVec.toNat_twoPow_of_lt hw8]
    _ = 2 ^ w ||| ds.toNat % 2 ^ w := by rw [Nat.and_two_pow_sub_one_eq_mod]
    _ = 2 ^ w + ds.toNat % 2 ^ w := by simpa only [Nat.mul_one] using (Nat.two_pow_add_eq_or_of_lt hlow 1).symm

/-- The bits of the padding byte follow from its value (R144). -/
theorem padByte_getLsbD (ds : Byte) {w : Nat} (hw : w ≤ 7) (k : Nat) :
    (padByte ds w).getLsbD k = if k < w then ds.getLsbD k else decide (k = w) := by
  have hlow : ds.toNat % 2 ^ w < 2 ^ w := Nat.mod_lt _ (Nat.two_pow_pos w)
  have hsplit := Nat.testBit_two_pow_mul_add 1 hlow k
  rw [Nat.mul_one, ← padByte_toNat ds hw, BitVec.testBit_toNat] at hsplit
  rw [hsplit]
  split
  case isTrue hk => rw [Nat.testBit_mod_two_pow, decide_eq_true hk, Bool.true_and, BitVec.testBit_toNat]
  case isFalse hk =>
    rw [Bool.eq_iff_iff, Nat.testBit_one_eq_true_iff_self_eq_zero, decide_eq_true_iff]
    omega

/-- Settles O21: the value of the padding byte, and its bits read off the value. -/
theorem padByteBits : Obligations.PadByteBits :=
  fun ds _ hw => ⟨padByte_toNat ds hw, fun k _ => padByte_getLsbD ds hw k⟩

/-- Settles O22: byte by byte, below the cursor, at it and above it. -/
theorem padBlockBytes : Obligations.PadBlockBytes := by
  intro iblk ioff pb
  have hcursor := ioff.isLt
  have hlength : (padBlock iblk ioff pb).toList.length =
      (iblk.toList.take ioff.val ++ [pb] ++ List.replicate (47 - ioff.val) 0x00).length := by
    simp only [Vector.length_toList, List.length_append, List.length_take, List.length_singleton,
      List.length_replicate]
    omega
  refine List.ext_getElem hlength fun i hi _ => ?_
  have hi48 : i < 48 := by simpa using hi
  rw [Vector.getElem_toList, padBlock_getElem iblk ioff pb i hi48]
  rcases lt_trichotomy i ioff.val with hbelow | hat | habove
  · simp [hbelow, hcursor.le]
  · simp [hat, hcursor.le]
  · simp [List.getElem_append, List.getElem_cons, habove.not_gt, habove.ne', hcursor.le,
      Nat.sub_ne_zero_of_lt habove]

/-- Settles O23: by the definitions of the two steps, each of which updates its one register. -/
theorem blockStepsWriteOneRegister : Obligations.BlockStepsWriteOneRegister :=
  fun _ _ => ⟨rfl, rfl⟩

end Sys2Proof.Machine
end

section
/-! What a command does that its examination stops or that finds nothing to do: `NOT_KEYED` (60_exceptions.md R203),
the silent no-ops (R212), and the mode machine that they complete (43_deck_commands.md R186). -/

namespace Sys2Proof.Machine

/-- R203: on an unkeyed block every command but NEW records `NOT_KEYED`. -/
theorem exec_of_unkeyed {i : Instr} {s : State} (hf : s.fault = false) (hk : s.keyed = false)
    (hn : ∀ klen, i ≠ .new klen) : exec i s = .next (s.raiseFault .notKeyed) :=
  exec_of_raise (examine_of_unkeyed hf hk hn)

theorem examine_of_legalArgs {i : Instr} {s : State} (hk : s.keyed = true) (hf : s.fault = false)
    (hl : legalArgs i = true) : examine i s = .pass := by
  cases i with
  | new klen =>
    have hlen : klen < 48 := of_decide_eq_true hl
    rw [examine_new hf, if_neg hlen.not_ge]
  | absorb _ => exact examine_absorb hf hk
  | finalize ds w off =>
    obtain ⟨hw, ho⟩ : w ≤ 7 ∧ off ≤ 48 := by simpa [legalArgs] using hl
    rw [examine_finalize hf hk, if_neg hw.not_gt, if_neg ho.not_gt]
  | squeeze _ => exact examine_squeeze hf hk
  | restart => exact examine_restart hf hk

/-- Whether a command is a silent no-op depends on the mode and its operands alone, so not on its payload. -/
@[simp] theorem silentNoOp_dropDin (i : Instr) (k : Nat) (s : State) :
    silentNoOp i (s.dropDin k) = silentNoOp i s := by
  cases i <;> rfl

/-- The effect of each item of R212's list is none. -/
theorem effect_of_silentNoOp (c : Config) {bs : List Byte} {i : Instr} {s : State}
    (hbs : bs.length = payloadLen i) (h : silentNoOp i s = true) : (Command.assemble bs i).effect c s = s := by
  cases i with
  | new _ => cases h
  | absorb len =>
    have hor : s.mode = .finalized ∨ len = 0 := by simpa [silentNoOp] using h
    rcases hor with hm | rfl
    · exact absorbEffect_of_finalized c bs hm
    · exact if_pos (.inr (List.eq_nil_of_length_eq_zero hbs))
  | finalize ds w off => exact finalizeEffect_of_finalized c ds w _ (by simpa [silentNoOp] using h)
  | squeeze n =>
    have hor : s.mode = .absorbing ∨ n = 0 := by simpa [silentNoOp] using h
    rcases hor with hm | rfl
    · exact squeezeEffect_of_absorbing c n hm
    · rw [Command.assemble, Command.effect, squeezeEffect, squeezeLoop, ite_self]
  | restart => exact restartEffect_of_absorbing (by simpa [silentNoOp] using h)

/-- R212: a silent no-op only takes its payload. -/
theorem exec_of_silentNoOp {i : Instr} {s : State} (hk : s.keyed = true) (hf : s.fault = false)
    (hl : legalArgs i = true) (hp : payloadLen i ≤ s.din.length) (h : silentNoOp i s = true) :
    exec i s = .next (s.dropDin (payloadLen i)) := by
  rw [exec_of_pass (examine_of_legalArgs hk hf hl) hp,
    effect_of_silentNoOp _ (List.length_take_of_le hp) ((silentNoOp_dropDin i _ s).trans h)]

/-- The effect of RESTART in `Finalized` mode (R180). -/
theorem restartEffect_of_finalized {s : State} (h : s.mode = .finalized) :
    restartEffect s = { s with omask := zero12, oblk := zero48, ooff := 0, mode := .absorbing } :=
  if_pos h

/-- The mode column of R186's table. -/
theorem effect_mode (c : Config) (bs : List Byte) (i : Instr) (s : State) :
    ((Command.assemble bs i).effect c s).mode = modeAfter i s.mode := by
  cases i with
  | new _ => rfl
  | absorb _ => rw [Command.assemble, Command.effect, absorbEffect_frame, modeAfter]
  | finalize ds w off =>
    cases hm : s.mode with
    | absorbing =>
      exact congrArg State.mode ((finalizeEffect_of_absorbing c ds w _ hm).trans (finalizeCycle_eq c ds w _ s))
    | finalized => exact (congrArg State.mode (finalizeEffect_of_finalized c ds w _ hm)).trans hm
  | squeeze _ => rw [Command.assemble, Command.effect, squeezeEffect_frame, modeAfter]
  | restart =>
    cases hm : s.mode with
    | absorbing => exact (congrArg State.mode (restartEffect_of_absorbing hm)).trans hm
    | finalized => exact congrArg State.mode (restartEffect_of_finalized hm)

/-- Settles O48: legal arguments pass the examination, so the command is its effect, and each column of the table is
a fact about the effect. -/
theorem modeTransitionTable : Obligations.ModeTransitionTable := by
  intro i s hk hf hl hp
  have hexec := exec_of_pass (examine_of_legalArgs hk hf hl) hp
  obtain ⟨hfault, -, -, -, hkeyed⟩ := effect_frame Config.deck
    (Command.assemble (s.din.take (payloadLen i)) i) (s.dropDin (payloadLen i))
  obtain ⟨out, hlen, hout⟩ := effect_dout Config.deck (s.din.take (payloadLen i)) i (s.dropDin (payloadLen i))
  refine ⟨_, hexec, effect_mode .., hkeyed hk, hfault.trans hf, ?emits, fun h => ?noOp⟩
  case emits => rw [hout, List.length_append, hlen, emitted_dropDin, State.dropDin_dout]
  case noOp => exact Host.Outcome.next.inj (hexec.symm.trans (exec_of_silentNoOp hk hf hl hp h))

/-- Settles O29: both cases are on R212's list; the empty message leaves `din` as it was. -/
theorem absorbSilentNoOp : Obligations.AbsorbSilentNoOp := by
  refine ⟨fun len s hk hf hm hp => ?finalized, fun s hk hf => ?empty⟩
  case finalized => exact exec_of_silentNoOp (i := .absorb len) hk hf rfl hp (by simp [silentNoOp, hm])
  case empty => exact exec_of_silentNoOp (i := .absorb 0) hk hf rfl (Nat.zero_le _) (by simp [silentNoOp])

/-- Settles O36: both cases are on R212's list. -/
theorem squeezeSilentNoOp : Obligations.SqueezeSilentNoOp := by
  refine ⟨fun n s hk hf hm => ?absorbing, fun s hk hf => ?zero⟩
  case absorbing => exact exec_of_silentNoOp (i := .squeeze n) hk hf rfl (Nat.zero_le _) (by simp [silentNoOp, hm])
  case zero => exact exec_of_silentNoOp (i := .squeeze 0) hk hf rfl (Nat.zero_le _) (by simp [silentNoOp])

end Sys2Proof.Machine
end

section
/-! NEW, FINALIZE and RESTART on their whole state (43_deck_commands.md R160, R170, R171, R180). -/

namespace Sys2Proof.Machine

/-- Settles O24: a short key passes the examination and NEW overwrites everything but the channels and `fcause`; a
long one raises `KEY_LEN`. -/
theorem newLeavesFreshState : Obligations.NewLeavesFreshState := by
  intro klen s hf
  refine ⟨fun hlen hp => ?short, fun hlen => ?long⟩
  case short => rw [exec_new hf hlen hp, newEffect, State.dropDin, hf]
  case long => exact exec_of_raise (by rw [examine_new hf, if_pos hlen])

/-- Settles O31: in `Absorbing` mode the effect of FINALIZE is its cycle, which `finalizeCycle_eq` gives field by
field. -/
theorem finalizeLeavesFirstBlock : Obligations.FinalizeLeavesFirstBlock := by
  intro ds w off s hf hw
  refine ⟨fun hk hm => ?keyed, fun hk => exec_of_unkeyed hf hk nofun⟩
  rw [exec_finalize hk hf hw off.is_le, Fin.ofNat_val_eq_self, finalizeEffect_of_absorbing _ _ _ _ hm,
    finalizeCycle_eq]

/-- Settles O32: the examination tests the width, then the offset, and never the mode; what passes it in `Finalized`
mode is a silent no-op. -/
theorem finalizePreconditionsAndNoOp : Obligations.FinalizePreconditionsAndNoOp := by
  intro ds w off s hk hf
  refine ⟨fun hw => ?width, fun hw ho => ?offset, fun hw ho hm => ?noOp⟩
  case width => exact exec_of_raise (by rw [examine_finalize hf hk, if_pos hw])
  case offset => exact exec_of_raise (by rw [examine_finalize hf hk, if_neg hw.not_gt, if_pos ho])
  case noOp =>
    exact exec_of_silentNoOp (i := .finalize ds w off) hk hf (by simp [legalArgs, hw, ho]) (Nat.zero_le _)
      (by simp [silentNoOp, hm])

/-- Settles O38: by the mode, and by the prologue on an unkeyed block. -/
theorem restartKeepsAccumulatorAndMask : Obligations.RestartKeepsAccumulatorAndMask := by
  intro s hf
  refine ⟨fun hk hm => ?finalized, fun hk hm => ?absorbing, fun hk => exec_of_unkeyed hf hk nofun⟩
  case finalized => rw [exec_restart hk hf, restartEffect_of_finalized hm]
  case absorbing => rw [exec_restart hk hf, restartEffect_of_absorbing hm]

end Sys2Proof.Machine
end

section
/-! ABSORB as the byte loop of 43_deck_commands.md R162. -/

namespace Sys2Proof.Machine

/-- One byte of the loop, by whether it is the block's 48th. -/
theorem absorbByte_eq_ite (c : Config) (s : State) (b : Byte) :
    absorbByte c s b =
      if s.ioff.val = 47 then
        { s with
          iblk := s.iblk.set s.ioff.val b
          acc := xor12 s.acc (P c (xor12 (leDecode (s.iblk.set s.ioff.val b)) s.imask))
          imask := rollLinear s.imask
          ioff := 0 }
      else { s with iblk := s.iblk.set s.ioff.val b, ioff := s.ioff + 1 } := by
  rcases absorbByte_cases c s b with ⟨hlt, h⟩ | ⟨hlast, h⟩
  · have hcursor : (⟨s.ioff.val + 1, hlt⟩ : Fin 48) = s.ioff + 1 :=
      Fin.ext (Fin.val_add_one_of_lt' hlt).symm
    rw [h, if_neg (by omega), hcursor]
  · rw [h, if_pos hlast]

/-- Settles O27: in `Absorbing` mode the effect of ABSORB is the fold of `absorbByte`, the loop's body. -/
theorem absorbRunsByteLoop : Obligations.AbsorbRunsByteLoop := by
  intro len s hf
  refine ⟨fun hk hm _ hp => ?keyed, fun hk => exec_of_unkeyed hf hk nofun⟩
  rw [exec_absorb hk hf hp, absorbEffect_of_absorbing (s := s.dropDin len) _ _ hm]
  exact congrArg _ (List.foldl_ext _ _ _ fun u b _ => absorbByte_eq_ite _ u b)

end Sys2Proof.Machine
end

section
/-! SQUEEZE as the `while` loop of 43_deck_commands.md R176. The model's loop emits byte by byte, the rule's copies a
chunk of the current block at a time: one iteration of the rule's loop is that many iterations of the model's. -/

namespace Sys2Proof.Machine

/-- The copy of one iteration: `k` bytes of the current block from the cursor on (R176). -/
def State.copyOut (k : Nat) (s : State) : State :=
  (s.doutWrite ((s.oblk.toList.drop s.ooff.val).take k)).setOoff (Fin.ofNat 49 (s.ooff.val + k))

/-- The regeneration that ends an iteration whose copy reached the block's end (R176). -/
def State.regenAtEnd (c : Config) (s : State) : State :=
  if s.ooff.val = 48 then s.nextBlock c 0 else s

/-- One iteration with `rem` bytes remaining (R176). -/
def squeezeChunk (c : Config) (rem : Nat) (s : State) : State :=
  (s.copyOut (min (48 - s.ooff.val) rem)).regenAtEnd c

theorem squeezeWhile_zero (c : Config) (fuel : Nat) (s : State) : squeezeWhile c fuel 0 s = s := by
  cases fuel <;> rfl

theorem squeezeWhile_succ (c : Config) (fuel : Nat) {rem : Nat} (h : rem ≠ 0) (s : State) :
    squeezeWhile c (fuel + 1) rem s =
      squeezeWhile c fuel (rem - min (48 - s.ooff.val) rem) (squeezeChunk c rem s) := by
  rw [squeezeWhile, if_neg h]
  exact (apply_ite (squeezeWhile c fuel (rem - min (48 - s.ooff.val) rem)) _ _ _).symm

theorem State.copyOut_ooff {k : Nat} {s : State} (h : s.ooff.val + k ≤ 48) :
    (s.copyOut k).ooff.val = s.ooff.val + k :=
  Nat.mod_eq_of_lt (Nat.lt_succ_of_le h)

@[simp] theorem State.copyOut_zero (s : State) : s.copyOut 0 = s := by
  simp [State.copyOut, State.doutWrite, State.setOoff]

theorem State.copyOut_copyOut {k m : Nat} {s : State} (h : s.ooff.val + k ≤ 48) :
    (s.copyOut k).copyOut m = s.copyOut (k + m) := by
  have hcursor := State.copyOut_ooff h
  rw [State.copyOut, hcursor]
  simp [State.copyOut, State.doutWrite, State.setOoff, List.take_add, Nat.add_assoc]

theorem State.regenAtEnd_of_lt (c : Config) {s : State} (h : s.ooff.val < 48) : s.regenAtEnd c = s :=
  if_neg h.ne

theorem State.regenAtEnd_ooff_lt (c : Config) (s : State) : (s.regenAtEnd c).ooff.val < 48 := by
  unfold State.regenAtEnd
  split
  · rw [State.nextBlock_ooff]
    exact Nat.zero_lt_succ 47
  · omega

theorem squeezeChunk_ooff_lt (c : Config) (rem : Nat) (s : State) : (squeezeChunk c rem s).ooff.val < 48 :=
  State.regenAtEnd_ooff_lt c _

/-- Below the block's end one byte of the model's loop is a copy of one byte, with the regeneration it leads to. -/
theorem squeezeByte_of_lt (c : Config) {s : State} (h : s.ooff.val < 48) :
    squeezeByte c s = (s.copyOut 1).regenAtEnd c := by
  have hcopy : s.copyOut 1 = (s.doutWrite [s.oblk[s.ooff.val]]).setOoff (Fin.succ ⟨s.ooff.val, h⟩) := by
    have htake : (s.oblk.toList.drop s.ooff.val).take 1 = [s.oblk[s.ooff.val]] := by
      rw [List.drop_eq_getElem_cons (by rwa [Vector.length_toList]), List.take_succ_cons, List.take_zero,
        Vector.getElem_toList]
    have hcursor : Fin.ofNat 49 (s.ooff.val + 1) = Fin.succ ⟨s.ooff.val, h⟩ :=
      Fin.ext (Nat.mod_eq_of_lt (Nat.succ_lt_succ h))
    rw [State.copyOut, htake, hcursor]
  rw [squeezeByte, dif_pos h, emitAt, State.regenAtEnd, State.copyOut_ooff h, hcopy]
  rfl

/-- At the block's end the model's loop generates the next block and goes on in it (R177). -/
theorem squeezeByte_of_eq (c : Config) {s : State} (h : s.ooff.val = 48) :
    squeezeByte c s = squeezeByte c (s.nextBlock c 0) := by
  rw [squeezeByte, dif_neg (by omega), squeezeByte, dif_pos (by simp)]
  rfl

/-- Copying up to the block's end in one piece is copying byte by byte. -/
theorem squeezeLoop_eq_copyOut (c : Config) {k : Nat} {s : State} (hlt : s.ooff.val < 48)
    (hk : s.ooff.val + k ≤ 48) : squeezeLoop c k s = (s.copyOut k).regenAtEnd c := by
  induction k with
  | zero => rw [squeezeLoop, State.copyOut_zero, State.regenAtEnd_of_lt c hlt]
  | succ k ih =>
    have hcursor : (s.copyOut k).ooff.val < 48 := by
      rw [State.copyOut_ooff (by omega)]
      omega
    calc squeezeLoop c (k + 1) s
      _ = squeezeByte c (squeezeLoop c k s) := squeezeLoop_add c k 1 s
      _ = squeezeByte c (s.copyOut k) := by rw [ih (by omega), State.regenAtEnd_of_lt c hcursor]
      _ = ((s.copyOut k).copyOut 1).regenAtEnd c := squeezeByte_of_lt c hcursor
      _ = (s.copyOut (k + 1)).regenAtEnd c := by rw [State.copyOut_copyOut (by omega)]

/-- One iteration of the rule's loop is so many iterations of the model's, at every cursor; at 48 it is none and the
block is regenerated. -/
theorem squeezeLoop_eq_squeezeChunk (c : Config) {rem : Nat} (hrem : rem ≠ 0) (s : State) :
    squeezeLoop c rem s = squeezeLoop c (rem - min (48 - s.ooff.val) rem) (squeezeChunk c rem s) := by
  rcases Nat.lt_or_ge s.ooff.val 48 with hlt | hge
  · calc squeezeLoop c rem s
      _ = squeezeLoop c (min (48 - s.ooff.val) rem + (rem - min (48 - s.ooff.val) rem)) s := by
        rw [Nat.add_sub_of_le (Nat.min_le_right _ _)]
      _ = squeezeLoop c (rem - min (48 - s.ooff.val) rem) (squeezeChunk c rem s) := by
        rw [squeezeLoop_add, squeezeLoop_eq_copyOut c hlt (by omega), squeezeChunk]
  · have hend : s.ooff.val = 48 := by omega
    obtain ⟨m, rfl⟩ := Nat.exists_eq_succ_of_ne_zero hrem
    have hchunk : squeezeChunk c (m + 1) s = s.nextBlock c 0 := by
      simp [squeezeChunk, hend, State.regenAtEnd]
    rw [Nat.succ_eq_add_one, hchunk, hend, Nat.sub_self, Nat.zero_min, Nat.sub_zero, squeezeLoop,
      squeezeByte_of_eq c hend, squeezeLoop]

/-- Below the block's end every iteration of the rule's loop copies a byte, so one iteration per byte is enough. -/
theorem squeezeWhile_eq_squeezeLoop (c : Config) {fuel rem : Nat} {s : State} (hlt : s.ooff.val < 48)
    (hfuel : rem ≤ fuel) : squeezeWhile c fuel rem s = squeezeLoop c rem s := by
  induction fuel generalizing rem s with
  | zero =>
    obtain rfl : rem = 0 := Nat.le_zero.mp hfuel
    rfl
  | succ fuel ih =>
    by_cases hrem : rem = 0
    · rw [hrem, squeezeWhile_zero, squeezeLoop]
    · rw [squeezeWhile_succ c fuel hrem, squeezeLoop_eq_squeezeChunk c hrem,
        ih (squeezeChunk_ooff_lt c rem s) (by omega)]

/-- With one iteration to spare the two loops agree at every cursor: the first iteration leaves it below 48. -/
theorem squeezeWhile_succ_eq_squeezeLoop (c : Config) {n : Nat} (hn : n ≠ 0) (s : State) :
    squeezeWhile c (n + 1) n s = squeezeLoop c n s := by
  rw [squeezeWhile_succ c n hn, squeezeLoop_eq_squeezeChunk c hn,
    squeezeWhile_eq_squeezeLoop c (squeezeChunk_ooff_lt c n s) (Nat.sub_le _ _)]

theorem squeezeLoop_ooff_lt (c : Config) {n : Nat} (hn : n ≠ 0) (s : State) : (squeezeLoop c n s).ooff.val < 48 := by
  obtain ⟨m, rfl⟩ := Nat.exists_eq_succ_of_ne_zero hn
  rw [Nat.succ_eq_add_one, squeezeLoop_add]
  exact squeezeByte_ooff_lt c _

/-- Settles O34: in `Finalized` mode the effect of SQUEEZE is the model's loop, which the rule's agrees with; the
cursor is below 48 after the last byte. -/
theorem squeezeRunsWhileLoop : Obligations.SqueezeRunsWhileLoop := by
  intro n s hf
  refine ⟨fun hk hm hn => ?keyed, fun hk => exec_of_unkeyed hf hk nofun⟩
  have hn0 : n ≠ 0 := Nat.one_le_iff_ne_zero.mp hn
  rw [squeezeWhile_succ_eq_squeezeLoop _ hn0, exec_squeeze hk hf, squeezeEffect_of_finalized _ _ hm]
  exact ⟨rfl, Nat.le_of_lt_succ (squeezeLoop_ooff_lt _ hn0 s)⟩

end Sys2Proof.Machine
end

section
/-! Faults (60_exceptions.md R206, R207, R214): what a command that raises one writes, and what a faulted block still
does. -/

namespace Sys2Proof.Machine

theorem examine_raise_ne_noCause {i : Instr} {s : State} {c : Cause} (h : examine i s = .raise c) : c ≠ .noCause := by
  rcases examine_raise h with rfl | rfl | rfl | rfl <;> decide

/-- R206: the only way from an unfaulted block to a faulted one is a cause that the command's examination raises. -/
theorem exec_eq_raiseFault_of_fault {i : Instr} {s t : State} (hf : s.fault = false) (h : exec i s = .next t)
    (ht : t.fault = true) : ∃ c, examine i s = .raise c ∧ t = s.raiseFault c := by
  rcases exec_next_cases h with ⟨hfault, -⟩ | hraise | ⟨-, -, rfl⟩
  case inl => exact absurd hfault (Bool.eq_false_iff.mp hf)
  case inr.inl => exact hraise
  case inr.inr =>
    obtain ⟨hkept, -⟩ := effect_frame Config.deck
      (Command.assemble (s.din.take (payloadLen i)) i) (s.dropDin (payloadLen i))
    exact absurd (hkept.symm.trans ht) (Bool.eq_false_iff.mp hf)

/-- Settles O43: the faulted state is the one before with the raised cause recorded. -/
theorem faultEntryIsPrecise : Obligations.FaultEntryIsPrecise := by
  intro i s t hf h ht
  obtain ⟨c, hraise, rfl⟩ := exec_eq_raiseFault_of_fault hf h ht
  exact ⟨rfl, examine_raise_ne_noCause hraise⟩

theorem State.takeCommand_of_nil {s : State} (hcmd : s.cmd = []) : s.takeCommand = s := by
  rw [takeCommand, hcmd, List.tail_nil, ← hcmd]

theorem step_of_cmd_nil {s : State} (hcmd : s.cmd = []) : step s = .next s := by
  unfold step
  simp only [hcmd]

/-- A step that meets a legal word runs its command without the word, once the payload is there. -/
theorem step_of_decode_ok {s : State} {c : Word} {rest : List Word} {i : Instr} (hcmd : s.cmd = c :: rest)
    (hdecode : decode c = .ok i) :
    step s = if payloadReady i s then exec i s.takeCommand else .next s := by
  unfold step
  simp only [hcmd, hdecode]

/-- A refused command takes no payload, so it waits for none (R67). -/
theorem payloadReady_of_fault (i : Instr) {s : State} (hf : s.fault = true) : payloadReady i s = true := by
  simp [payloadReady, payloadNeed, examine_of_fault hf]

/-- R207: a faulted block only takes the word from `cmd`, be it absent, illegal or a command. -/
theorem step_of_fault {s : State} (hf : s.fault = true) : step s = .next s.takeCommand := by
  have hf' : s.takeCommand.fault = true := s.takeCommand_fault.trans hf
  cases hcmd : s.cmd with
  | nil => rw [step_of_cmd_nil hcmd, State.takeCommand_of_nil hcmd]
  | cons c rest =>
    cases hdecode : decode c with
    | error e => rw [step_of_decode_error hcmd hdecode, illegalCommand_of_fault hf']
    | ok i => rw [step_of_decode_ok hcmd hdecode, if_pos (payloadReady_of_fault i hf), exec_of_fault i hf']

/-- Settles O44: commands and steps by R207's lemmas; `STATUS` does not look at `cmd`. -/
theorem faultedBlockRefusesEverything : Obligations.FaultedBlockRefusesEverything := by
  intro s hf
  refine ⟨fun i => exec_of_fault i hf, step_of_fault hf, fun t h => ?status⟩
  obtain rfl : s.takeCommand = t := Host.Outcome.next.inj ((step_of_fault hf).symm.trans h)
  exact State.status_congr rfl rfl rfl rfl

/-- Every act of the host but reset is on a channel. -/
theorem State.host_fault_of_ne_reset {e : HostEvent} (s : State) (he : e ≠ .reset) :
    (s.host e).fault = s.fault ∧ (s.host e).fcause = s.fcause := by
  cases e with
  | reset => exact absurd rfl he
  | send _ => exact ⟨rfl, rfl⟩
  | feed _ => exact ⟨rfl, rfl⟩
  | collect _ => exact ⟨rfl, rfl⟩

/-- Settles O47: a step only takes a word, the host's other acts are on the channels, and reset answers the reset
state. -/
theorem onlyResetClearsFault : Obligations.OnlyResetClearsFault := by
  intro s hf
  refine ⟨fun t h => ?step, fun e he => ?host, ?reset⟩
  case step =>
    obtain rfl : s.takeCommand = t := Host.Outcome.next.inj ((step_of_fault hf).symm.trans h)
    exact ⟨hf, rfl⟩
  case host =>
    obtain ⟨hfault, hcause⟩ := s.host_fault_of_ne_reset he
    exact ⟨hfault.trans hf, hcause⟩
  case reset =>
    rw [State.host_reset]
    exact ⟨rfl, rfl, rfl⟩

end Sys2Proof.Machine
end

section
/-! The order of examination (60_exceptions.md R211): where each of its lines stops a command, and what a command that
no line stops does. -/

namespace Sys2Proof.Machine

/-- Settles O42: an unkeyed block's examination stops at the prologue, before any operand is looked at. -/
theorem unkeyedCommandsFault : Obligations.UnkeyedCommandsFault :=
  fun _ _ hk hf hn => exec_of_unkeyed hf hk hn

/-- Legal arguments pass R211's lines 3 to 6 on a keyed block, and those of NEW also on an unkeyed one. -/
theorem examine_of_legalArgs_of_keyed_or_new {i : Instr} {s : State} (hf : s.fault = false)
    (hk : s.keyed = true ∨ ∃ klen, i = .new klen) (hl : legalArgs i = true) : examine i s = .pass := by
  rcases hk with hk | ⟨klen, rfl⟩
  · exact examine_of_legalArgs hk hf hl
  · have hlen : klen < 48 := of_decide_eq_true hl
    rw [examine_new hf, if_neg hlen.not_ge]

theorem payloadNeed_of_pass {i : Instr} {s : State} (h : examine i s = .pass) : payloadNeed i s = payloadLen i := by
  rw [payloadNeed, h]

/-- R211, line 8: a command that no line before stops completes, and the block is keyed after it. -/
theorem exec_of_legalArgs {i : Instr} {s : State} (hf : s.fault = false)
    (hk : s.keyed = true ∨ ∃ klen, i = .new klen) (hl : legalArgs i = true) (hp : payloadLen i ≤ s.din.length) :
    ∃ t, exec i s = .next t ∧ t.fault = false ∧ t.keyed = true := by
  obtain ⟨hfault, -, -, -, hkeyed⟩ := effect_frame Config.deck
    (Command.assemble (s.din.take (payloadLen i)) i) (s.dropDin (payloadLen i))
  refine ⟨_, exec_of_pass (examine_of_legalArgs_of_keyed_or_new hf hk hl) hp, hfault.trans hf, ?_⟩
  rcases hk with hk | ⟨klen, rfl⟩
  · exact hkeyed hk
  · rfl

/-- Settles O25: 48 is the first length that stops at line 4 of R211, and 47 is legal. -/
theorem keyOfBlockLengthFaults : Obligations.KeyOfBlockLengthFaults := by
  refine ⟨fun klen s hf hlen => ?long, fun s hf hp => exec_of_legalArgs hf (.inr ⟨47, rfl⟩) rfl hp⟩
  obtain ⟨-, hfaults⟩ := newLeavesFreshState klen s hf
  exact hfaults hlen

/-- Settles O46: each item is on the list `silentNoOp`, and all but ABSORB have no payload to take. -/
theorem silentNoOpsChangeNothing : Obligations.SilentNoOpsChangeNothing := by
  intro s hk hf
  refine ⟨fun len hno hp => ?absorb, fun ds w off hm hw ho => ?finalize, fun n hno => ?squeeze, fun hm => ?restart⟩
  case absorb => exact exec_of_silentNoOp (i := .absorb len) hk hf rfl hp (by simpa [silentNoOp] using hno)
  case finalize =>
    obtain ⟨-, -, hnoOp⟩ := finalizePreconditionsAndNoOp ds w off s hk hf
    exact hnoOp hw ho hm
  case squeeze =>
    exact exec_of_silentNoOp (i := .squeeze n) hk hf rfl (Nat.zero_le _) (by simpa [silentNoOp] using hno)
  case restart =>
    exact exec_of_silentNoOp (i := .restart) hk hf rfl (Nat.zero_le _) (by simp [silentNoOp, hm])

/-- R211, lines 1 and 2: an illegal word is refused by a faulted block and faults any other, keyed or not. -/
theorem step_of_illegal_word {s : State} {c : Word} {rest : List Word} {e : Illegal} (hcmd : s.cmd = c :: rest)
    (hdecode : decode c = .error e) :
    step s = .next (if s.fault then { s with cmd := rest }
      else { s with cmd := rest, fault := true, fcause := .illegalCmd }) := by
  rw [← State.takeCommand_of_cons hcmd]
  cases hf : s.fault with
  | true => exact step_of_fault hf
  | false =>
    obtain ⟨-, hillegal⟩ := illegalWordsFault
    exact hillegal c e rest s hdecode hcmd hf

/-- Settles O45: R211's lines one after the other. Where no line stops the command its payload is what it needs. -/
theorem examinationOrder : Obligations.ExaminationOrder := by
  refine ⟨fun c rest e s hcmd hdecode => step_of_illegal_word hcmd hdecode, fun i s hneed => ?lines⟩
  have payload_of_pass (h : examine i s = .pass) : payloadLen i ≤ s.din.length := payloadNeed_of_pass h ▸ hneed
  refine ⟨exec_of_fault i, exec_of_unkeyed, ?keyLen, ?finalize, fun hf hk hl hno => ?noOp, fun hf hk hl => ?effect⟩
  case keyLen =>
    rintro klen rfl hf hlen
    obtain ⟨hfaults, -⟩ := keyOfBlockLengthFaults
    exact hfaults klen s hf hlen
  case finalize =>
    rintro ds w off rfl hf hk
    obtain ⟨hwidth, hoffset, -⟩ := finalizePreconditionsAndNoOp ds w off s hk hf
    exact ⟨hwidth, hoffset⟩
  case noOp => exact exec_of_silentNoOp hk hf hl (payload_of_pass (examine_of_legalArgs hk hf hl)) hno
  case effect =>
    exact exec_of_legalArgs hf hk hl (payload_of_pass (examine_of_legalArgs_of_keyed_or_new hf hk hl))

end Sys2Proof.Machine
end

section
/-! The round trip of command words (30_encoding.md R71 to R78): what the word of each command decodes to, and what a
word that decodes is as a number. -/

namespace Sys2Proof

theorem decode_encode_new {klen : Nat} (h : klen < 2 ^ 6) : decode (encode (.new klen)) = .ok (.new klen) := by
  have hfield : (0x10000000 + klen) % 2 ^ 6 = klen := by omega
  rw [encode_new h, decode_ofNat (by omega), if_pos (by omega), hfield]

theorem decode_encode_absorb {len : Nat} (h : len < 2 ^ 24) : decode (encode (.absorb len)) = .ok (.absorb len) := by
  have hfield : (0x20000000 + len) % 2 ^ 24 = len := by omega
  rw [encode_absorb h, decode_ofNat (by omega), if_neg (by omega), if_pos (by omega), hfield]

theorem decode_encode_finalize {ds : Byte} {w off : Nat} (hw : w < 2 ^ 3) (ho : off < 2 ^ 6) :
    decode (encode (.finalize ds w off)) = .ok (.finalize ds w off) := by
  have hds := ds.isLt
  have hdsField : (0x30000000 + off * 2 ^ 11 + w * 2 ^ 8 + ds.toNat) % 2 ^ 8 = ds.toNat := by omega
  have hwField : (0x30000000 + off * 2 ^ 11 + w * 2 ^ 8 + ds.toNat) / 2 ^ 8 % 2 ^ 3 = w := by omega
  have hoffField : (0x30000000 + off * 2 ^ 11 + w * 2 ^ 8 + ds.toNat) / 2 ^ 11 % 2 ^ 6 = off := by omega
  rw [encode_finalize hw ho, decode_ofNat (by omega), if_neg (by omega), if_neg (by omega), if_pos (by omega),
    hdsField, hwField, hoffField, BitVec.ofNat_toNat, BitVec.setWidth_eq]

theorem decode_encode_squeeze {n : Nat} (h : n < 2 ^ 24) : decode (encode (.squeeze n)) = .ok (.squeeze n) := by
  have hfield : (0x40000000 + n) % 2 ^ 24 = n := by omega
  rw [encode_squeeze h, decode_ofNat (by omega), if_neg (by omega), if_neg (by omega), if_neg (by omega),
    if_pos (by omega), hfield]

/-- Settles O2: by the command, whose word as a number fits its own pattern and no earlier one. -/
theorem decodeEncodeAgree : Obligations.DecodeEncodeAgree := by
  intro i h
  cases i with
  | new klen => exact decode_encode_new (of_decide_eq_true h)
  | absorb len => exact decode_encode_absorb (of_decide_eq_true h)
  | finalize ds w off =>
    obtain ⟨hw, ho⟩ : w < 2 ^ 3 ∧ off < 2 ^ 6 := by
      simpa only [Instr.wellFormed, Bool.and_eq_true, decide_eq_true_eq] using h
    exact decode_encode_finalize hw ho
  | squeeze n => exact decode_encode_squeeze (of_decide_eq_true h)
  | restart => decide

/-- Everything a word that decodes can be: one of five forms, each with its operands in range. -/
theorem decode_ok_cases {c : Word} {i : Instr} (h : decode c = .ok i) :
    (∃ klen < 2 ^ 6, i = .new klen ∧ c.toNat = 0x10000000 + klen) ∨
    (∃ len < 2 ^ 24, i = .absorb len ∧ c.toNat = 0x20000000 + len) ∨
    (∃ (ds : Byte) (w off : Nat), w < 2 ^ 3 ∧ off < 2 ^ 6 ∧ i = .finalize ds w off ∧
      c.toNat = 0x30000000 + off * 2 ^ 11 + w * 2 ^ 8 + ds.toNat) ∨
    (∃ n < 2 ^ 24, i = .squeeze n ∧ c.toNat = 0x40000000 + n) ∨
    (i = .restart ∧ c.toNat = 0x50000000) := by
  have hdecode := decode_ofNat c.isLt
  rw [BitVec.ofNat_toNat, BitVec.setWidth_eq, h] at hdecode
  split_ifs at hdecode with hnew habsorb hfinalize hsqueeze hrestart
  · exact .inl ⟨_, Nat.mod_lt _ (by decide), Except.ok.inj hdecode, by omega⟩
  · exact .inr (.inl ⟨_, Nat.mod_lt _ (by decide), Except.ok.inj hdecode, by omega⟩)
  · refine .inr (.inr (.inl ⟨_, _, _, Nat.mod_lt _ (by decide), Nat.mod_lt _ (by decide), Except.ok.inj hdecode, ?_⟩))
    rw [BitVec.toNat_ofNat]
    omega
  · exact .inr (.inr (.inr (.inl ⟨_, Nat.mod_lt _ (by decide), Except.ok.inj hdecode, by omega⟩)))
  · exact .inr (.inr (.inr (.inr ⟨Except.ok.inj hdecode, hrestart⟩)))

/-- A word is the one that a number spells if it has that value. -/
theorem ofNat_eq_word {c : Word} {n : Nat} (h : c.toNat = n) : BitVec.ofNat 32 n = c := by
  rw [← h, BitVec.ofNat_toNat, BitVec.setWidth_eq]

/-- Settles O3: each form a legal word can have is the word of its command. -/
theorem legalWordHasOneMeaning : Obligations.LegalWordHasOneMeaning := by
  intro c i h
  rcases decode_ok_cases h with ⟨klen, hk, rfl, hc⟩ | ⟨len, hl, rfl, hc⟩ | ⟨ds, w, off, hw, ho, rfl, hc⟩ |
    ⟨n, hn, rfl, hc⟩ | ⟨rfl, hc⟩
  · exact ⟨decide_eq_true hk, (encode_new hk).trans (ofNat_eq_word hc)⟩
  · exact ⟨decide_eq_true hl, (encode_absorb hl).trans (ofNat_eq_word hc)⟩
  · exact ⟨by simp only [Instr.wellFormed, hw, ho, decide_true, Bool.and_self],
      (encode_finalize hw ho).trans (ofNat_eq_word hc)⟩
  · exact ⟨decide_eq_true hn, (encode_squeeze hn).trans (ofNat_eq_word hc)⟩
  · exact ⟨rfl, ofNat_eq_word hc⟩

/-- Settles O1: by evaluating the decoder on the fourteen words. -/
theorem specWordsDecode : Obligations.SpecWordsDecode := by
  unfold Obligations.SpecWordsDecode
  decide

end Sys2Proof
end

section
/-! One step of the block (20_memory.md R51, R67): that every state has one, what it is, and what follows for the
fault causes, the output, `keyed` and the output cursor. -/

namespace Sys2Proof.Machine

/-- The examination does not look at the channels. -/
@[simp] theorem examine_takeCommand (i : Instr) (s : State) : examine i s.takeCommand = examine i s := by
  cases i <;> rfl

@[simp] theorem payloadNeed_takeCommand (i : Instr) (s : State) : payloadNeed i s.takeCommand = payloadNeed i s := by
  rw [payloadNeed, examine_takeCommand, payloadNeed]

theorem payloadReady_iff {i : Instr} {s : State} : payloadReady i s = true ↔ payloadNeed i s ≤ s.din.length :=
  decide_eq_true_iff

/-- A command whose payload is there completes. -/
theorem exec_completes {i : Instr} {s : State} (hp : payloadNeed i s ≤ s.din.length) : ∃ t, exec i s = .next t := by
  cases hv : examine i s with
  | refuse => exact ⟨s, by rw [exec_eq_settle, hv, settle_refuse]⟩
  | raise c => exact ⟨s.raiseFault c, exec_of_raise hv⟩
  | pass => exact ⟨_, exec_of_pass hv (payloadNeed_of_pass hv ▸ hp)⟩

/-- Settles O5: the word is the first on `cmd`, and its payload is there. -/
theorem stepRunsDecodedCommand : Obligations.StepRunsDecodedCommand := by
  intro c rest i s hcmd hdecode _ hp
  rw [step_of_decode_ok hcmd hdecode, if_pos (payloadReady_iff.mpr hp), State.takeCommand_of_cons hcmd]

/-- Settles O6: the two cases in which there is nothing to run. -/
theorem stepWaitsForCommandAndPayload : Obligations.StepWaitsForCommandAndPayload := by
  refine ⟨fun s hcmd => step_of_cmd_nil hcmd, fun c rest i s hcmd hdecode hp => ?_⟩
  rw [step_of_decode_ok hcmd hdecode, if_neg (mt payloadReady_iff.mp hp.not_ge)]

/-- Settles O7: by what is next on `cmd`: no word, an illegal one, a command that waits, or one that completes. -/
theorem everyStepAnswersNext : Obligations.EveryStepAnswersNext := by
  intro s
  cases hcmd : s.cmd with
  | nil => exact ⟨s, step_of_cmd_nil hcmd⟩
  | cons c rest =>
    cases hdecode : decode c with
    | error e => exact ⟨_, step_of_decode_error hcmd hdecode⟩
    | ok i =>
      rw [step_of_decode_ok hcmd hdecode]
      split
      case isTrue hready =>
        refine exec_completes ?_
        rw [payloadNeed_takeCommand]
        exact payloadReady_iff.mp hready
      case isFalse => exact ⟨s, rfl⟩

/-- A check that finds nothing wrong changes no verdict. -/
@[simp] theorem check_false (v : Verdict) (c : Cause) : v.check false c = v := by
  cases v <;> rfl

/-- A command that a word spells never violates `DS_WIDTH`: its width has three bits (R204). -/
theorem examine_ne_raise_dsWidth {i : Instr} (s : State) (h : i.wellFormed = true) : examine i s ≠ .raise .dsWidth := by
  intro hv
  cases i with
  | finalize ds w off =>
    obtain ⟨hw, -⟩ : w < 2 ^ 3 ∧ off < 2 ^ 6 := by
      simpa only [Instr.wellFormed, Bool.and_eq_true, decide_eq_true_eq] using h
    have hwidth : decide (7 < w) = false := decide_eq_false (by omega)
    rcases check_eq_raise hv with hprologue | hoffset
    · rw [hwidth, check_false] at hprologue
      cases (prologue_eq_raise hprologue).2
    · cases hoffset
  | new klen =>
    rcases check_eq_raise hv with hprologue | hlength
    · cases (prologue_eq_raise hprologue).2
    · cases hlength
  | absorb _ => cases (prologue_eq_raise hv).2
  | squeeze _ => cases (prologue_eq_raise hv).2
  | restart => cases (prologue_eq_raise hv).2

/-- The causes that a step of the block can record: 1, 2, 3 and 5 (R201, R204, R209, R210). -/
def Cause.FromWords (c : Cause) : Prop := c = .illegalCmd ∨ c = .notKeyed ∨ c = .keyLen ∨ c = .finOffset

theorem fromWords_of_examine_raise {i : Instr} {s : State} {c : Cause} (hwf : i.wellFormed = true)
    (h : examine i s = .raise c) : c.FromWords := by
  rcases examine_raise h with rfl | rfl | rfl | rfl
  · exact .inr (.inl rfl)
  · exact .inr (.inr (.inl rfl))
  · exact absurd h (examine_ne_raise_dsWidth s hwf)
  · exact .inr (.inr (.inr rfl))

/-- A step completes command `i`, ending in `t`: its word is next on `cmd`, it passes its examination, it takes its
payload from `din`, and it has its effect. -/
structure Completes (i : Instr) (s t : State) : Prop where
  /-- the word is the next one -/
  word : ∃ c rest, s.cmd = c :: rest ∧ decode c = .ok i
  /-- no check stops the command -/
  passes : examine i s = .pass
  /-- the payload is there -/
  payload : payloadLen i ≤ s.din.length
  /-- the state it ends in -/
  result : t = (Command.assemble (s.din.take (payloadLen i)) i).effect Config.deck
    (s.takeCommand.dropDin (payloadLen i))

/-- Everything a step can do to the block: nothing, but for taking a refused word; record a fault; or complete a
command. -/
theorem step_cases {s t : State} (h : step s = .next t) :
    (t = s ∨ t = s.takeCommand) ∨
    (s.fault = false ∧ ∃ c : Cause, c.FromWords ∧ t = s.takeCommand.raiseFault c) ∨
    (∃ i, Completes i s t) := by
  cases hf : s.fault with
  | true => exact .inl (.inr (Host.Outcome.next.inj (h.symm.trans (step_of_fault hf))))
  | false =>
    rcases step_next_cases h with rfl | ⟨c, rest, e, hcmd, -, rfl⟩ | ⟨c, rest, i, hcmd, hdecode, -, hexec⟩
    · exact .inl (.inl rfl)
    · exact .inr (.inl ⟨rfl, .illegalCmd, .inl rfl, illegalCommand_of_ok hf⟩)
    · rcases exec_next_cases hexec with ⟨hfault, -⟩ | ⟨cause, hraise, rfl⟩ | ⟨hpass, hpayload, rfl⟩
      · exact absurd hfault (Bool.eq_false_iff.mp hf)
      · obtain ⟨hwf, -⟩ := legalWordHasOneMeaning c i hdecode
        exact .inr (.inl ⟨rfl, cause, fromWords_of_examine_raise hwf hraise, rfl⟩)
      · exact .inr (.inr ⟨i, ⟨c, rest, hcmd, hdecode⟩, (examine_takeCommand i s) ▸ hpass, hpayload, rfl⟩)

/-- A step that completes no command writes nothing but `cmd` and the fault. -/
theorem step_keeps_or_completes {s t : State} (h : step s = .next t) :
    (∃ cmd fault fcause, t = { s with cmd := cmd, fault := fault, fcause := fcause }) ∨ (∃ i, Completes i s t) := by
  rcases step_cases h with (rfl | rfl) | ⟨-, c, -, rfl⟩ | hi
  · exact .inl ⟨_, _, _, rfl⟩
  · exact .inl ⟨_, _, _, rfl⟩
  · exact .inl ⟨_, _, _, rfl⟩
  · exact .inr hi

/-- What an effect leaves of the fault and of `din`, and that it never clears `keyed`, for a completed command. -/
theorem Completes.frame {i : Instr} {s t : State} (h : Completes i s t) :
    t.fault = false ∧ t.fcause = s.fcause ∧ t.din = s.din.drop (payloadLen i) ∧ (s.keyed = true → t.keyed = true) := by
  obtain ⟨hfault, hcause, -, hdin, hkeyed⟩ := effect_frame Config.deck
    (Command.assemble (s.din.take (payloadLen i)) i) (s.takeCommand.dropDin (payloadLen i))
  obtain ⟨hf, -⟩ := examine_pass h.passes
  rw [h.result]
  exact ⟨hfault.trans hf, hcause, hdin, hkeyed⟩

/-- Settles O33: a legal word is well formed, so its width has three bits; and a step records no other cause than
those of `Cause.FromWords`. -/
theorem dsWidthUnreachableByWords : Obligations.DsWidthUnreachableByWords := by
  refine ⟨fun c ds w off hdecode => ?width, fun s t h ht => ?step⟩
  case width =>
    obtain ⟨hwf, -⟩ := legalWordHasOneMeaning c _ hdecode
    obtain ⟨hw, -⟩ : w < 2 ^ 3 ∧ off < 2 ^ 6 := by
      simpa only [Instr.wellFormed, Bool.and_eq_true, decide_eq_true_eq] using hwf
    omega
  case step =>
    rcases step_cases h with (rfl | rfl) | ⟨-, c, hc, rfl⟩ | ⟨i, hi⟩
    · exact ht
    · exact ht
    · obtain rfl : c = .dsWidth := ht
      rcases hc with hc | hc | hc | hc <;> cases hc
    · obtain ⟨-, hcause, -⟩ := hi.frame
      exact hcause.symm.trans ht

/-- Settles O51: only a completed command emits, as many bytes as `emitted` says, and only an effective SQUEEZE
emits any. -/
theorem outputOnlyFromEffectiveSqueeze : Obligations.OutputOnlyFromEffectiveSqueeze := by
  intro s t h
  rcases step_keeps_or_completes h with ⟨_, _, _, rfl⟩ | ⟨i, hi⟩
  · exact ⟨[], (List.append_nil _).symm, fun hne => absurd rfl hne⟩
  · obtain ⟨out, hlen, hout⟩ := effect_dout Config.deck (s.din.take (payloadLen i)) i
      (s.takeCommand.dropDin (payloadLen i))
    refine ⟨out, hi.result ▸ hout, fun hne => ?_⟩
    rw [emitted_dropDin] at hlen
    obtain ⟨hf, hk⟩ := examine_pass hi.passes
    rcases emitted_cases i s.takeCommand with ⟨n, rfl, hn, hm⟩ | ⟨hzero, -⟩
    · obtain ⟨c, rest, hcmd, hdecode⟩ := hi.word
      refine ⟨hk.resolve_right nofun, hf, hm, c, rest, hcmd, ?_⟩
      rw [hdecode, hlen, hn]
    · exact absurd (List.eq_nil_of_length_eq_zero (hlen.trans hzero)) hne

/-- Settles O52: only completing a command changes `keyed`, and a command that passes on an unkeyed block is NEW. -/
theorem keyedOnlyByNew : Obligations.KeyedOnlyByNew := by
  intro s t h
  rcases step_keeps_or_completes h with ⟨_, _, _, rfl⟩ | ⟨i, hi⟩
  · exact ⟨id, fun hk ht => absurd ht (Bool.eq_false_iff.mp hk)⟩
  · obtain ⟨-, -, hdin, hkeyed⟩ := hi.frame
    refine ⟨hkeyed, fun hk _ => ?_⟩
    obtain ⟨hf, hkeyed | ⟨klen, rfl⟩⟩ := examine_pass hi.passes
    · exact absurd hkeyed (Bool.eq_false_iff.mp hk)
    · obtain ⟨c, rest, hcmd, hdecode⟩ := hi.word
      have hlen : klen < 48 := by
        by_contra hge
        have hv := hi.passes
        rw [examine_new hf, if_pos (Nat.le_of_not_lt hge)] at hv
        cases hv
      exact ⟨hf, c, rest, klen, hcmd, hdecode, hlen, hdin⟩

/-- FINALIZE that passes its examination has a legal offset (R205). -/
theorem off_le_of_examine_pass {ds : Byte} {w off : Nat} {s : State} (h : examine (.finalize ds w off) s = .pass) :
    off ≤ 48 := by
  obtain ⟨hf, hk⟩ := examine_pass h
  rw [examine_finalize hf (hk.resolve_right nofun)] at h
  split_ifs at h
  omega

/-- The effect of FINALIZE puts the cursor at its offset, in `Absorbing` mode alone. -/
theorem finalizeEffect_ooff (c : Config) (ds : Byte) (w : Nat) (off : Fin 49) (s : State) :
    (finalizeEffect c ds w off s).ooff = if s.mode = .absorbing then off else s.ooff := by
  cases hm : s.mode with
  | absorbing =>
    exact congrArg State.ooff ((finalizeEffect_of_absorbing c ds w _ hm).trans (finalizeCycle_eq c ds w _ s))
  | finalized => exact congrArg State.ooff (finalizeEffect_of_finalized c ds w _ hm)

/-- The effect of SQUEEZE leaves a spent cursor only where nothing was read (R176, eager). -/
theorem squeezeEffect_ooff (c : Config) (n : Nat) (s : State) :
    (squeezeEffect c n s).ooff = s.ooff ∨ (squeezeEffect c n s).ooff.val < 48 := by
  cases hm : s.mode with
  | absorbing => exact .inl (congrArg State.ooff (squeezeEffect_of_absorbing c n hm))
  | finalized =>
    rw [squeezeEffect_of_finalized c n hm]
    rcases eq_or_ne n 0 with rfl | hn
    · exact .inl rfl
    · exact .inr (squeezeLoop_ooff_lt c hn s)

/-- The cursor after each effect: only FINALIZE spends it. -/
theorem effect_ooff_eq_spent {c : Config} {bs : List Byte} {i : Instr} {s : State}
    (ht : ((Command.assemble bs i).effect c s).ooff.val = 48) (hs : s.ooff.val ≠ 48) :
    s.mode = .absorbing ∧ ∃ ds w off, i = .finalize ds w off ∧ off % 49 = 48 := by
  cases i with
  | new _ => cases ht
  | absorb _ =>
    rw [Command.assemble, Command.effect, absorbEffect_frame] at ht
    exact absurd ht hs
  | finalize ds w off =>
    rw [Command.assemble, Command.effect, finalizeEffect_ooff] at ht
    split at ht
    case isTrue hm => exact ⟨hm, ds, w, off, rfl, ht⟩
    case isFalse => exact absurd ht hs
  | squeeze n =>
    rcases squeezeEffect_ooff c n s with h | h
    · exact absurd ((congrArg Fin.val h).symm.trans ht) hs
    · exact absurd ht h.ne
  | restart =>
    cases hm : s.mode with
    | absorbing => exact absurd ((congrArg (·.ooff.val) (restartEffect_of_absorbing hm)).symm.trans ht) hs
    | finalized => cases (congrArg (·.ooff.val) (restartEffect_of_finalized hm)).symm.trans ht

/-- Settles O53: the command that spends the cursor is FINALIZE, and what passed the examination has an offset of at
most 48. -/
theorem spentCursorOnlyFromFinalize : Obligations.SpentCursorOnlyFromFinalize := by
  intro s t h ht hs
  rcases step_keeps_or_completes h with ⟨_, _, _, rfl⟩ | ⟨i, hi⟩
  · exact absurd ht hs
  · rw [hi.result] at ht
    obtain ⟨hm, ds, w, off, rfl, hoff⟩ := effect_ooff_eq_spent ht hs
    obtain ⟨c, rest, hcmd, hdecode⟩ := hi.word
    have hle := off_le_of_examine_pass hi.passes
    obtain rfl : off = 48 := by omega
    refine ⟨hm, ?_, c, rest, ds, w, hcmd, hdecode⟩
    rw [hi.result, effect_mode, modeAfter]

end Sys2Proof.Machine
end

section
/-! The permutation and the linear roll (40_permutation.md R102; 41_rolling.md R122). -/

namespace Sys2Proof.Machine

/-- Round `i`'s constant heads the constants that the last `12 - i` rounds use. -/
theorem drop_constants_eq_cons (c : Config) {i : Nat} (h : i < 12) :
    c.constants.toList.drop i = c.constants.toList.getD i 0 :: c.constants.toList.drop (i + 1) := by
  have hi : i < c.constants.toList.length := by rwa [Vector.length_toList]
  rw [List.drop_eq_getElem_cons hi, List.getD_eq_getElem _ _ hi]

/-- Settles O12: the constants used by one round more are one more. -/
theorem permutePeelsFirstRound : Obligations.PermutePeelsFirstRound := by
  refine fun c s => ⟨?none, fun R h => ?first⟩
  case none =>
    rw [permute, List.drop_eq_nil_of_le (by rw [Vector.length_toList]; rfl), List.foldl_nil]
  case first =>
    have hindex : 11 - R + 1 = 12 - R := by omega
    calc permute c s ⟨R + 1, by omega⟩
      _ = (c.constants.toList.drop (11 - R)).foldl c.round s := by rw [permute, Nat.add_sub_add_right 11 1 R]
      _ = permute c (c.round s (c.constants.toList.getD (11 - R) 0)) ⟨R, by omega⟩ := by
        rw [drop_constants_eq_cons c (by omega), List.foldl_cons, hindex, permute]

/-- Settles O11: the constants that `permute` folds over are the table's entries from index `12 - R` on. -/
theorem permuteAppliesLastRounds : Obligations.PermuteAppliesLastRounds := by
  intro c s R
  have hused : c.constants.toList.drop (12 - R.val) =
      (List.range R.val).map fun k => c.constants.toList.getD (12 - R.val + k) 0 := by
    refine List.ext_getElem ?_ fun k hk _ => ?_
    · have hR := R.isLt
      simp only [List.length_drop, Vector.length_toList, List.length_map, List.length_range]
      omega
    · rw [List.getElem_drop, List.getElem_map, List.getElem_range, List.getD_eq_getElem]
  rw [permute, hused, List.foldl_map]

/-- The twelve words, the new one in the library's rotation. -/
theorem rollLinear_toList (s : Lanes) :
    (rollLinear s).toList =
      [s[4], s[5], s[6], s[7], s[8], s[9], s[10], s[11], s[1], s[2], s[3],
        s[0] ^^^ (s[0] <<< 13) ^^^ (s[4].rotateLeft 3)] := by
  rw [rollLinear, rollShape_toList, rotl_eq_rotateLeft _ (by decide)]

/-- Settles O14: by the words of a roll's shape. -/
theorem rollLinearWords : Obligations.RollLinearWords := rollLinear_toList

/-- The new word of the linear roll is made of a shift, a rotation and XOR, all of them linear. -/
theorem rollLinear_newWord_xor (x x' y y' : Word) :
    (x ^^^ x') ^^^ ((x ^^^ x') <<< 13) ^^^ rotl (y ^^^ y') 3 =
      (x ^^^ (x <<< 13) ^^^ rotl y 3) ^^^ (x' ^^^ (x' <<< 13) ^^^ rotl y' 3) := by
  have hswap (a b c d : Word) : a ^^^ b ^^^ (c ^^^ d) = a ^^^ c ^^^ (b ^^^ d) := by
    rw [BitVec.xor_assoc, BitVec.xor_assoc, ← BitVec.xor_assoc b, BitVec.xor_comm b, BitVec.xor_assoc]
  rw [BitVec.shiftLeft_xor_distrib, rotl_xor _ _ (by decide), hswap x x', hswap]

theorem rollLinear_xor12 (a b : Lanes) : rollLinear (xor12 a b) = xor12 (rollLinear a) (rollLinear b) := by
  rw [rollLinear, xor12_getElem _ _ 0 (by decide), xor12_getElem _ _ 4 (by decide), rollLinear_newWord_xor,
    rollShape_xor12, rollLinear, rollLinear]

/-- Settles O15: linearity by the new word's; the zero state by evaluation. -/
theorem rollLinearIsLinear : Obligations.RollLinearIsLinear := ⟨rollLinear_xor12, by decide⟩

end Sys2Proof.Machine
end

section
/-! The codec and the key padding (42_block_helpers.md R142, R143). -/

namespace Sys2Proof.Machine

/-- Byte `j` of a word of four bytes. -/
theorem extractLsb'_wordOfBytes (b3 b2 b1 b0 : Byte) {j : Nat} (hj : j < 4) :
    (wordOfBytes b3 b2 b1 b0).extractLsb' (8 * j) 8 = #v[b0, b1, b2, b3][j] := by
  ext k hk
  rw [BitVec.getElem_extractLsb', wordOfBytes_getLsbD]
  match j, hj with
  | 0, _ => rw [if_pos (by omega), ← BitVec.getLsbD_eq_getElem]; simp
  | 1, _ => rw [if_neg (by omega), if_pos (by omega), ← BitVec.getLsbD_eq_getElem]; simp
  | 2, _ => rw [if_neg (by omega), if_neg (by omega), if_pos (by omega), ← BitVec.getLsbD_eq_getElem]; simp
  | 3, _ => rw [if_neg (by omega), if_neg (by omega), if_neg (by omega), ← BitVec.getLsbD_eq_getElem]; simp

/-- A word is the word of its four bytes. -/
theorem wordOfBytes_extractLsb' (x : Word) :
    wordOfBytes (x.extractLsb' 24 8) (x.extractLsb' 16 8) (x.extractLsb' 8 8) (x.extractLsb' 0 8) = x := by
  apply BitVec.eq_of_getLsbD_eq
  intro k hk
  rw [wordOfBytes_getLsbD]
  simp only [BitVec.getLsbD_extractLsb']
  split_ifs with h8 h16 h24
  · simp [h8]
  · simp [show k - 8 < 8 by omega, show 8 + (k - 8) = k by omega]
  · simp [show k - 16 < 8 by omega, show 16 + (k - 16) = k by omega]
  · simp [show k - 24 < 8 by omega, show 24 + (k - 24) = k by omega]

/-- The word of four sums of bytes is the sum of the words. -/
theorem wordOfBytes_xor (a3 a2 a1 a0 b3 b2 b1 b0 : Byte) :
    wordOfBytes (a3 ^^^ b3) (a2 ^^^ b2) (a1 ^^^ b1) (a0 ^^^ b0) =
      wordOfBytes a3 a2 a1 a0 ^^^ wordOfBytes b3 b2 b1 b0 := by
  apply BitVec.eq_of_getLsbD_eq
  intro k _
  simp only [BitVec.getLsbD_xor, wordOfBytes_getLsbD]
  split_ifs <;> rfl

theorem leEncode_leDecode (b : Block) : leEncode (leDecode b) = b := by
  apply Vector.ext
  intro k hk
  rw [leEncode_getElem _ k hk, leDecode_getElem _ (k / 4) (by omega), extractLsb'_wordOfBytes _ _ _ _ (by omega)]
  have hindex : 4 * (k / 4) + k % 4 = k := by omega
  have hbyte : ∀ j (hj : j < 4), #v[b[4 * (k / 4)], b[4 * (k / 4) + 1], b[4 * (k / 4) + 2], b[4 * (k / 4) + 3]][j] =
      b[4 * (k / 4) + j] := by
    intro j hj
    match j, hj with
    | 0, _ => rfl
    | 1, _ => rfl
    | 2, _ => rfl
    | 3, _ => rfl
  rw [hbyte (k % 4) (by omega)]
  simp only [hindex]

theorem leDecode_leEncode (w : Lanes) : leDecode (leEncode w) = w := by
  apply Vector.ext
  intro i hi
  have hdiv : ∀ j < 4, (4 * i + j) / 4 = i := fun j hj => by omega
  have hmod : ∀ j < 4, (4 * i + j) % 4 = j := fun j hj => by omega
  rw [leDecode_getElem _ i hi, leEncode_getElem _ (4 * i + 3) (by omega), leEncode_getElem _ (4 * i + 2) (by omega),
    leEncode_getElem _ (4 * i + 1) (by omega), leEncode_getElem _ (4 * i) (by omega)]
  simp only [hdiv _ (show 3 < 4 by decide), hdiv _ (show 2 < 4 by decide), hdiv _ (show 1 < 4 by decide),
    hmod _ (show 3 < 4 by decide), hmod _ (show 2 < 4 by decide), hmod _ (show 1 < 4 by decide),
    Nat.mul_div_cancel_left i (show 0 < 4 by decide), Nat.mul_mod_right]
  exact wordOfBytes_extractLsb' w[i]

theorem leDecode_xor (a b : Block) :
    leDecode (Vector.ofFn fun k => a[k] ^^^ b[k]) = xor12 (leDecode a) (leDecode b) := by
  apply Vector.ext
  intro i hi
  rw [xor12_getElem _ _ i hi, leDecode_getElem _ i hi, leDecode_getElem _ i hi, leDecode_getElem _ i hi,
    ← wordOfBytes_xor]
  simp

/-- Settles O18: each direction by the bytes of a word or the word of its bytes; zero by evaluation. -/
theorem codecIsBijection : Obligations.CodecIsBijection :=
  ⟨leEncode_leDecode, leDecode_leEncode, leDecode_xor, by decide⟩

/-- Settles O19: byte by byte, in the key, at the one byte after it, and above it. -/
theorem padKeyBytes : Obligations.PadKeyBytes := by
  intro key hlen
  have hlength : (padKey key).toList.length = (key ++ [0x01] ++ List.replicate (47 - key.length) 0x00).length := by
    simp only [Vector.length_toList, List.length_append, List.length_singleton, List.length_replicate]
    omega
  refine List.ext_getElem hlength fun i hi _ => ?_
  have hi48 : i < 48 := by simpa using hi
  rw [Vector.getElem_toList, padKey_getElem key i hi48]
  rcases lt_trichotomy i key.length with hin | hat | habove
  · simp [hin]
  · simp [hat]
  · simp [List.getElem_append, List.getElem_cons, habove.not_gt, habove.ne', Nat.sub_ne_zero_of_lt habove]

/-- The padding byte of a longer key is missing in the padded key of a shorter one. -/
theorem length_le_of_padKey_eq {k₁ k₂ : List Byte} (h₂ : k₂.length < 48) (h : padKey k₁ = padKey k₂) :
    k₂.length ≤ k₁.length := by
  by_contra hlt
  have hbyte : (padKey k₁)[k₂.length] = (padKey k₂)[k₂.length] := by rw [h]
  rw [padKey_getElem _ _ h₂, padKey_getElem _ _ h₂, if_neg (by omega), if_neg (by omega), if_neg (by omega),
    if_pos rfl] at hbyte
  exact absurd hbyte (by decide)

/-- Settles O20: the keys have the same length, because the `0x01` byte is followed by zeros alone, and then the same
bytes. -/
theorem differentKeysPadDifferently : Obligations.DifferentKeysPadDifferently := by
  intro k₁ k₂ h₁ h₂ h
  have hlen : k₁.length = k₂.length :=
    Nat.le_antisymm (length_le_of_padKey_eq h₁ h.symm) (length_le_of_padKey_eq h₂ h)
  refine List.ext_getElem hlen fun i hi₁ hi₂ => ?_
  have hbyte : (padKey k₁)[i] = (padKey k₂)[i] := by rw [h]
  rwa [padKey_getElem _ _ (by omega), padKey_getElem _ _ (by omega), if_pos hi₁, if_pos hi₂,
    List.getD_eq_getElem _ _ hi₁, List.getD_eq_getElem _ _ hi₂] at hbyte

end Sys2Proof.Machine
end

section
/-! The host's use of the channels (20_memory.md R51 to R53), and several blocks (60_exceptions.md R222). -/

namespace Sys2Proof.Machine

/-- Settles O10: `State.host` case by case; what is collected and what stays are the two parts of `dout`. -/
theorem hostActsOnlyOnChannels : Obligations.HostActsOnlyOnChannels := by
  refine ⟨fun c s => rfl, fun bs s => rfl, fun n s => ⟨?order, ?count, rfl⟩⟩
  case order => exact List.take_append_drop n s.dout
  case count => exact List.length_take

/-- What a step of a bank is: none where there is no such block, else the block's own. -/
theorem stepInstance_next_cases {k : Nat} {bank bank' : List State} (h : stepInstance k bank = .next bank') :
    (bank[k]? = none ∧ bank' = bank) ∨ (∃ s t, bank[k]? = some s ∧ step s = .next t ∧ bank' = bank.set k t) := by
  unfold stepInstance at h
  split at h
  · next hnone => exact .inl ⟨hnone, (Host.Outcome.next.inj h).symm⟩
  · next s hsome =>
    split at h
    · next t hstep => exact .inr ⟨s, t, hsome, hstep, (Host.Outcome.next.inj h).symm⟩
    · cases h
    · cases h

/-- Settles O59: the bank after a step is the bank with block `k` replaced by its own next state. -/
theorem instancesShareNoState : Obligations.InstancesShareNoState := by
  intro k bank bank' h
  rcases stepInstance_next_cases h with ⟨hnone, rfl⟩ | ⟨s, t, hsome, hstep, rfl⟩
  · refine ⟨rfl, fun _ _ => rfl, fun s hs => ?_⟩
    rw [hnone] at hs
    cases hs
  · refine ⟨List.length_set, fun j hj => List.getElem?_set_ne hj.symm, fun u hu => ⟨t, ?_, ?_⟩⟩
    · obtain ⟨hk, -⟩ := List.getElem?_eq_some_iff.mp hsome
      exact List.getElem?_set_self hk
    · obtain rfl : s = u := Option.some.inj (hsome.symm.trans hu)
      exact hstep

end Sys2Proof.Machine
end

section
/-! NEW and the blocks of ABSORB (43_deck_commands.md R160, R163, R187). -/

namespace Sys2Proof.Machine

/-- NEW that completes had its checks passed and its key on `din`. -/
theorem exec_new_next_cases {klen : Nat} {s t : State} (hf : s.fault = false) (hlen : klen < 48)
    (h : exec (.new klen) s = .next t) :
    klen ≤ s.din.length ∧ t = newEffect Config.deck (s.din.take klen) (s.dropDin klen) := by
  have hpass : examine (.new klen) s = .pass := by rw [examine_new hf, if_neg hlen.not_ge]
  rcases exec_next_cases h with ⟨hfault, -⟩ | ⟨c, hraise, -⟩ | ⟨-, hp, ht⟩
  · exact absurd hfault (Bool.eq_false_iff.mp hf)
  · cases hpass.symm.trans hraise
  · exact ⟨hp, ht⟩

/-- Settles O26: NEW keeps only the channels and the fault of the state it runs in, in which the two blocks agree. -/
theorem newForgetsOldState : Obligations.NewForgetsOldState := by
  intro klen s t u hs ht hcause hcmd hdin hdout hlen hu
  obtain ⟨hp, rfl⟩ := exec_new_next_cases hs hlen hu
  rw [exec_new ht hlen (hdin ▸ hp)]
  simp only [newEffect, State.dropDin, hs, ht, hcause, hcmd, hdin, hdout]

/-- Block `j` of a byte list depends on its first `48 (j + 1)` bytes alone. -/
theorem blockAt_append (bs cs : List Byte) {j : Nat} (h : 48 * (j + 1) ≤ bs.length) :
    blockAt (bs ++ cs) j = blockAt bs j := by
  apply Vector.ext
  intro k hk
  rw [blockAt, blockAt, Vector.getElem_ofFn, Vector.getElem_ofFn]
  exact List.getD_append _ _ _ _ (by dsimp only; omega)

/-- The fold over `n` blocks depends on the first `48 n` bytes alone. -/
theorem foldBlocks_append (c : Config) (m a : Lanes) (bs cs : List Byte) {n : Nat} (h : 48 * n ≤ bs.length) :
    foldBlocks c m a (bs ++ cs) n = foldBlocks c m a bs n := by
  induction n with
  | zero => rfl
  | succ n ih => rw [foldBlocks, foldBlocks, ih (by omega), blockAt_append bs cs h]

/-- What R163 says of a block `u` that has taken the bytes `M` since its cursor was 0, its mask `m` and its
accumulator `a`: the whole blocks of `M` are folded, and the rest is buffered below the cursor. -/
structure HasAbsorbed (c : Config) (m a : Lanes) (M : List Byte) (u : State) : Prop where
  /-- each whole block rolled the mask once -/
  imask : u.imask = rollLinear^[M.length / 48] m
  /-- the whole blocks are folded -/
  acc : u.acc = foldBlocks c m a M (M.length / 48)
  /-- the cursor stands at the rest's length -/
  ioff : u.ioff.val = M.length % 48
  /-- the rest is in the buffer -/
  tail : ∀ k : Fin 48, k.val < u.ioff.val → u.iblk[k] = M.getD (48 * (M.length / 48) + k.val) 0

/-- Every block has absorbed what stands in its buffer below the cursor. -/
theorem hasAbsorbed_tail (c : Config) (s : State) :
    HasAbsorbed c s.imask s.acc (s.iblk.toList.take s.ioff.val) s := by
  have hlt := s.ioff.isLt
  have hlen : (s.iblk.toList.take s.ioff.val).length = s.ioff.val := by
    rw [List.length_take, Vector.length_toList, Nat.min_eq_left hlt.le]
  have hnone : (s.iblk.toList.take s.ioff.val).length / 48 = 0 := by omega
  refine ⟨by rw [hnone]; rfl, by rw [hnone]; rfl, by omega, fun k hk => ?_⟩
  rw [hnone, Nat.mul_zero, Nat.zero_add, List.getD_eq_getElem _ _ (by omega), List.getElem_take, Vector.getElem_toList]
  rfl

/-- With the next byte stored at the cursor the buffer holds the rest up to and with that byte. -/
theorem HasAbsorbed.tail_set {c : Config} {m a : Lanes} {M : List Byte} {u : State} (h : HasAbsorbed c m a M u)
    (b : Byte) {k : Nat} (hk : k ≤ u.ioff.val) (hk48 : k < 48) :
    (u.iblk.set u.ioff.val b)[k] = (M ++ [b]).getD (48 * (M.length / 48) + k) 0 := by
  have hioff := h.ioff
  rcases hk.lt_or_eq with hbelow | rfl
  · rw [Vector.getElem_set_ne _ _ hbelow.ne', List.getD_append _ _ _ _ (by omega)]
    exact h.tail ⟨k, hk48⟩ hbelow
  · have hindex : 48 * (M.length / 48) + u.ioff.val = M.length := by omega
    rw [Vector.getElem_set_self, hindex, List.getD_append_right _ _ _ _ le_rfl, Nat.sub_self]
    rfl

/-- A byte that does not complete a block joins the rest. -/
theorem HasAbsorbed.buffer {c : Config} {m a : Lanes} {M : List Byte} {u : State} (h : HasAbsorbed c m a M u)
    (b : Byte) (hlt : u.ioff.val + 1 < 48) :
    HasAbsorbed c m a (M ++ [b]) { u with iblk := u.iblk.set u.ioff.val b, ioff := ⟨u.ioff.val + 1, hlt⟩ } := by
  have hioff := h.ioff
  have hlen : (M ++ [b]).length = M.length + 1 := List.length_append
  have hblocks : (M ++ [b]).length / 48 = M.length / 48 := by omega
  refine ⟨?_, ?_, ?_, fun k hk => ?_⟩
  · rw [hblocks]
    exact h.imask
  · rw [hblocks, foldBlocks_append _ _ _ _ _ (Nat.mul_div_le _ _)]
    exact h.acc
  · dsimp only
    omega
  · rw [hblocks]
    exact h.tail_set b (Nat.le_of_lt_succ hk) k.isLt

/-- The byte that completes a block is folded with the rest before it. -/
theorem HasAbsorbed.fold {c : Config} {m a : Lanes} {M : List Byte} {u : State} (h : HasAbsorbed c m a M u)
    (b : Byte) (hlast : u.ioff.val = 47) :
    HasAbsorbed c m a (M ++ [b])
      { u with
        iblk := u.iblk.set u.ioff.val b
        acc := xor12 u.acc (P c (xor12 (leDecode (u.iblk.set u.ioff.val b)) u.imask))
        imask := rollLinear u.imask
        ioff := 0 } := by
  have hioff := h.ioff
  have hlen : (M ++ [b]).length = M.length + 1 := List.length_append
  have hblocks : (M ++ [b]).length / 48 = M.length / 48 + 1 := by omega
  have hblock : u.iblk.set u.ioff.val b = blockAt (M ++ [b]) (M.length / 48) := by
    apply Vector.ext
    intro k hk
    rw [h.tail_set b (by omega) hk, blockAt, Vector.getElem_ofFn]
  refine ⟨?_, ?_, ?_, fun k hk => absurd hk (Nat.not_lt_zero _)⟩
  · rw [hblocks, Function.iterate_succ_apply', ← h.imask]
  · rw [hblocks, foldBlocks, foldBlocks_append _ _ _ _ _ (Nat.mul_div_le _ _), ← hblock, ← h.imask, ← h.acc]
  · dsimp only [Fin.val_zero]
    omega

theorem HasAbsorbed.absorbByte {c : Config} {m a : Lanes} {M : List Byte} {u : State} (h : HasAbsorbed c m a M u)
    (b : Byte) : HasAbsorbed c m a (M ++ [b]) (absorbByte c u b) := by
  rcases absorbByte_cases c u b with ⟨hlt, heq⟩ | ⟨hlast, heq⟩
  · exact heq ▸ h.buffer b hlt
  · exact heq ▸ h.fold b hlast

theorem HasAbsorbed.foldl {c : Config} {m a : Lanes} {M : List Byte} {u : State} (h : HasAbsorbed c m a M u)
    (bs : List Byte) : HasAbsorbed c m a (M ++ bs) (bs.foldl (Machine.absorbByte c) u) := by
  induction bs generalizing M u with
  | nil => rwa [List.append_nil]
  | cons b bs ih =>
    rw [List.append_cons, List.foldl_cons]
    exact ih (h.absorbByte b)

/-- What ABSORB leaves in `Absorbing` mode, the empty message included: its message follows the buffered tail. -/
theorem hasAbsorbed_absorbEffect (c : Config) (bs : List Byte) {s : State} (hm : s.mode = .absorbing) :
    HasAbsorbed c s.imask s.acc (s.iblk.toList.take s.ioff.val ++ bs) (absorbEffect c bs s) := by
  rw [absorbEffect_of_absorbing c bs hm]
  exact (hasAbsorbed_tail c s).foldl bs

/-- Settles O28: `M` is absorbed, and the effect of ABSORB writes nothing but the four registers of the input side. -/
theorem absorbFoldsWholeBlocks : Obligations.AbsorbFoldsWholeBlocks := by
  intro len s hk hf hm _ hp
  have hlt := s.ioff.isLt
  have hlen : (s.iblk.toList.take s.ioff.val ++ s.din.take len).length = s.ioff.val + len := by
    rw [List.length_append, List.length_take, Vector.length_toList, List.length_take_of_le hp, Nat.min_eq_left hlt.le]
  have habsorbed := hasAbsorbed_absorbEffect Config.deck (s.din.take len) (s := s.dropDin len) hm
  have hframe := absorbEffect_frame Config.deck (s.din.take len) (s.dropDin len)
  rw [exec_absorb hk hf hp]
  generalize absorbEffect Config.deck (s.din.take len) (s.dropDin len) = u at habsorbed hframe
  obtain ⟨himask, hacc, hioff, htail⟩ := habsorbed
  simp only [State.dropDin_iblk, State.dropDin_ioff, State.dropDin_imask, State.dropDin_acc, hlen]
    at himask hacc hioff htail
  have hcursor : u.ioff = Fin.ofNat 48 (s.ioff.val + len) := Fin.ext hioff
  refine ⟨u.iblk, ?_, fun k hk => htail k (hioff ▸ hk)⟩
  rw [hframe, himask, hacc, hcursor, State.dropDin]

end Sys2Proof.Machine
end

section
/-! A command that can be cut in pieces: ABSORB and SQUEEZE (43_deck_commands.md R187, R188). -/

namespace Sys2Proof.Machine

/-- A command with a count, `f n` its effect where the state is `fit` for the count: a run of it over any list of
counts is one run over their sum, if `f` is additive in the count. -/
theorem runAll_map_eq_sum {cmd : Nat → Instr} {f : Nat → State → State} {fit : Nat → State → Prop}
    (hexec : ∀ {n s}, fit n s → exec (cmd n) s = .next (f n s)) (hzero : ∀ s, f 0 s = s)
    (hadd : ∀ m n s, f (m + n) s = f n (f m s))
    (hfit : ∀ {m n s}, fit (m + n) s → fit m s ∧ fit n (f m s)) {counts : List Nat} {s : State}
    (h : fit counts.sum s) : runAll (counts.map cmd) s = .next (f counts.sum s) := by
  induction counts generalizing s with
  | nil => exact congrArg _ (hzero s).symm
  | cons n counts ih =>
    rw [List.sum_cons] at h ⊢
    obtain ⟨hhead, htail⟩ := hfit h
    rw [hadd, ← ih htail, List.map_cons, runAll, hexec hhead]

/-- The next `n` bytes of `din` taken and absorbed. -/
def State.absorbDin (n : Nat) (s : State) : State := absorbEffect Config.deck (s.din.take n) (s.dropDin n)

theorem exec_absorb_eq_absorbDin {len : Nat} {s : State} (hk : s.keyed = true) (hf : s.fault = false)
    (hp : len ≤ s.din.length) : exec (.absorb len) s = .next (s.absorbDin len) := exec_absorb hk hf hp

theorem State.absorbDin_frame (n : Nat) (s : State) :
    (s.absorbDin n).keyed = s.keyed ∧ (s.absorbDin n).fault = s.fault ∧ (s.absorbDin n).din = s.din.drop n := by
  rw [absorbDin, absorbEffect_frame]
  exact ⟨rfl, rfl, rfl⟩

theorem State.absorbDin_zero (s : State) : s.absorbDin 0 = s :=
  if_pos (.inr List.take_zero)

theorem State.absorbDin_add (m n : Nat) (s : State) : s.absorbDin (m + n) = (s.absorbDin m).absorbDin n := by
  obtain ⟨-, -, hdin⟩ := s.absorbDin_frame m
  calc s.absorbDin (m + n)
    _ = absorbEffect Config.deck (s.din.take m ++ (s.din.drop m).take n) ((s.dropDin m).dropDin n) := by
      rw [absorbDin, List.take_add, dropDin, dropDin, dropDin, List.drop_drop]
    _ = absorbEffect Config.deck ((s.din.drop m).take n) ((s.absorbDin m).dropDin n) := by
      rw [absorbEffect_append, absorbEffect_dropDin, absorbDin]
    _ = (s.absorbDin m).absorbDin n := by rw [← hdin]; rfl

/-- Settles O30: taking and absorbing is additive in the length. -/
theorem chunkedAbsorbAgrees : Obligations.ChunkedAbsorbAgrees := by
  intro lens s hk hf hp
  refine ⟨s.absorbDin lens.sum, ?_, exec_absorb_eq_absorbDin hk hf hp⟩
  refine runAll_map_eq_sum (fit := fun n s => s.keyed = true ∧ s.fault = false ∧ n ≤ s.din.length)
    (fun ⟨hk, hf, hp⟩ => exec_absorb_eq_absorbDin hk hf hp) State.absorbDin_zero State.absorbDin_add ?_ ⟨hk, hf, hp⟩
  rintro m n s ⟨hk, hf, hp⟩
  obtain ⟨hkeyed, hfault, hdin⟩ := s.absorbDin_frame m
  refine ⟨⟨hk, hf, Nat.le_of_add_right_le hp⟩, hkeyed.trans hk, hfault.trans hf, ?_⟩
  rw [hdin, List.length_drop]
  omega

theorem squeezeEffect_zero (c : Config) (s : State) : squeezeEffect c 0 s = s := ite_self s

theorem squeezeEffect_add (c : Config) (m n : Nat) (s : State) :
    squeezeEffect c (m + n) s = squeezeEffect c n (squeezeEffect c m s) := by
  have hmode : (squeezeEffect c m s).mode = s.mode := by rw [squeezeEffect_frame]
  cases hm : s.mode with
  | absorbing =>
    rw [squeezeEffect_of_absorbing c n (hmode.trans hm), squeezeEffect_of_absorbing c _ hm,
      squeezeEffect_of_absorbing c _ hm]
  | finalized =>
    rw [squeezeEffect_of_finalized c n (hmode.trans hm), squeezeEffect_of_finalized c _ hm,
      squeezeEffect_of_finalized c _ hm, squeezeLoop_add]

/-- Settles O37: emitting is additive in the length. -/
theorem chunkedSqueezeAgrees : Obligations.ChunkedSqueezeAgrees := by
  intro sizes s hk hf
  refine ⟨squeezeEffect Config.deck sizes.sum s, ?_, exec_squeeze hk hf⟩
  refine runAll_map_eq_sum (fit := fun _ s => s.keyed = true ∧ s.fault = false)
    (f := squeezeEffect Config.deck) (fun ⟨hk, hf⟩ => exec_squeeze hk hf) (squeezeEffect_zero _)
    (squeezeEffect_add _) ?_ ⟨hk, hf⟩
  rintro m n s ⟨hk, hf⟩
  refine ⟨⟨hk, hf⟩, ?_⟩
  rw [squeezeEffect_frame]
  exact ⟨hk, hf⟩

end Sys2Proof.Machine
end

section
/-! The output stream (43_deck_commands.md R176, R177, R191). -/

namespace Sys2Proof.Machine

/-- Where the output side of `s` stands after `n` bytes of its stream, the bytes on `dout`: the block counted from the
current one, the mask that its successor is made from, the cursor below 48. -/
def State.streamAt (c : Config) (s : State) (n : Nat) : State :=
  { s with
    dout := s.dout ++ (List.range n).map
      (fun q => (upcomingBlock c s ((s.ooff.val + q) / 48)).toList.getD ((s.ooff.val + q) % 48) 0)
    oblk := upcomingBlock c s ((s.ooff.val + n) / 48)
    omask := rollNonlinear^[(s.ooff.val + n) / 48] s.omask
    ooff := Fin.ofNat 49 ((s.ooff.val + n) % 48) }

theorem State.streamAt_ooff (c : Config) (s : State) (n : Nat) : (s.streamAt c n).ooff.val = (s.ooff.val + n) % 48 := by
  have h := Nat.mod_lt (s.ooff.val + n) (show 0 < 48 by decide)
  exact Nat.mod_eq_of_lt (by omega)

/-- Before the first byte the stream stands at the cursor, or after the end of the block at the start of the next. -/
theorem State.streamAt_zero (c : Config) (s : State) :
    s.streamAt c 0 = if s.ooff.val = 48 then s.nextBlock c 0 else s := by
  have h := s.ooff.isLt
  split
  case isTrue hend =>
    simp [streamAt, hend, upcomingBlock, outputBlock, nextBlock, gen, setOoff, rollOmask]
  case isFalse hne =>
    have hcursor : Fin.ofNat 49 ((s.ooff.val + 0) % 48) = s.ooff := Fin.ext ((s.streamAt_ooff c 0).trans (by omega))
    have hblock : (s.ooff.val + 0) / 48 = 0 := by omega
    rw [streamAt, hcursor, hblock, List.range_zero, List.map_nil, List.append_nil]
    rfl

/-- The byte at the cursor is the stream's next. -/
theorem State.streamAt_dout_succ (c : Config) (s : State) (n : Nat) (h : (s.streamAt c n).ooff.val < 48) :
    (s.streamAt c n).dout ++ [(s.streamAt c n).oblk[(⟨(s.streamAt c n).ooff.val, h⟩ : Fin 48)]] =
      (s.streamAt c (n + 1)).dout := by
  have hcursor := s.streamAt_ooff c n
  have hbyte : (s.streamAt c n).oblk[(s.streamAt c n).ooff.val] =
      (upcomingBlock c s ((s.ooff.val + n) / 48)).toList.getD ((s.ooff.val + n) % 48) 0 := by
    rw [List.getD_eq_getElem _ _ (by rw [Vector.length_toList, ← hcursor]; exact h), Vector.getElem_toList]
    simp only [hcursor]
    rfl
  have hindex : (s.streamAt c n).oblk[(⟨(s.streamAt c n).ooff.val, h⟩ : Fin 48)] =
      (s.streamAt c n).oblk[(s.streamAt c n).ooff.val] := rfl
  rw [hindex, hbyte, streamAt, streamAt, List.range_succ, List.map_append, List.append_assoc]
  rfl

/-- A byte emitted takes the stream one byte on, into the next block where it was the block's last. -/
theorem squeezeByte_streamAt (c : Config) (s : State) (n : Nat) :
    squeezeByte c (s.streamAt c n) = s.streamAt c (n + 1) := by
  have hcursor := s.streamAt_ooff c n
  have hlt : (s.streamAt c n).ooff.val < 48 := hcursor ▸ Nat.mod_lt _ (by decide)
  rw [squeezeByte, dif_pos hlt]
  rcases emitAt_cases c ⟨_, hlt⟩ (s.streamAt c n) with ⟨hin, heq⟩ | ⟨hlast, heq⟩
  · rw [hcursor] at hin
    have hblock : (s.ooff.val + (n + 1)) / 48 = (s.ooff.val + n) / 48 := by omega
    have hnext : Fin.succ ⟨_, hlt⟩ = (s.streamAt c (n + 1)).ooff := by
      refine Fin.ext ?_
      rw [Fin.val_succ, hcursor, State.streamAt_ooff]
      omega
    rw [heq, s.streamAt_dout_succ c n hlt, hnext, State.streamAt, State.streamAt, hblock]
  · rw [hcursor] at hlast
    have hblock : (s.ooff.val + (n + 1)) / 48 = (s.ooff.val + n) / 48 + 1 := by omega
    have hnext : 0 = (s.streamAt c (n + 1)).ooff := by
      refine Fin.ext ?_
      rw [State.streamAt_ooff, Fin.val_zero]
      omega
    rw [heq, s.streamAt_dout_succ c n hlt, hnext, State.streamAt, State.streamAt, hblock,
      Function.iterate_succ_apply']
    rfl

/-- After at least one byte the model's loop stands where the stream does, from every cursor. -/
theorem squeezeLoop_succ_eq_streamAt (c : Config) (n : Nat) (s : State) :
    squeezeLoop c (n + 1) s = s.streamAt c (n + 1) := by
  induction n with
  | zero =>
    have hfirst : squeezeByte c s = squeezeByte c (s.streamAt c 0) := by
      rw [State.streamAt_zero]
      split
      case isTrue hend => exact squeezeByte_of_eq c hend
      case isFalse => rfl
    exact hfirst.trans (squeezeByte_streamAt c s 0)
  | succ n ih =>
    rw [squeezeLoop_add, ih]
    exact squeezeByte_streamAt c s (n + 1)

/-- Settles O35: the loop of the effect byte by byte along the stream. -/
theorem squeezeEmitsStream : Obligations.SqueezeEmitsStream := by
  intro n s hk hf hm hn
  obtain ⟨m, rfl⟩ := Nat.exists_eq_add_of_le' hn
  rw [exec_squeeze hk hf, squeezeEffect_of_finalized _ _ hm, squeezeLoop_succ_eq_streamAt, State.streamAt]

end Sys2Proof.Machine
end

section
/-! Cycles (43_deck_commands.md R190 to R192): ABSORB and FINALIZE leave the first output block, SQUEEZE reads the
stream, RESTART drops the output side. -/

namespace Sys2Proof.Machine

theorem runAll_cons_of_next {i : Instr} {s t : State} (rest : List Instr) (h : exec i s = .next t) :
    runAll (i :: rest) s = runAll rest t := by
  rw [runAll, h]

/-- The padding turns the buffered rest into the last block of the message with its padding byte (R145, R190). -/
theorem HasAbsorbed.padBlock {c : Config} {m a : Lanes} {M : List Byte} {u : State} (h : HasAbsorbed c m a M u)
    (pb : Byte) : padBlock u.iblk u.ioff pb = blockAt (M ++ [pb]) (M.length / 48) := by
  have hioff := h.ioff
  apply Vector.ext
  intro k hk
  rw [padBlock_getElem _ _ _ k hk, blockAt, Vector.getElem_ofFn]
  rcases lt_trichotomy k u.ioff.val with hbelow | hat | habove
  · rw [if_pos hbelow, List.getD_append _ _ _ _ (by dsimp only; omega)]
    exact h.tail ⟨k, hk⟩ hbelow
  · have hindex : 48 * (M.length / 48) + k = M.length := by omega
    rw [if_neg hat.not_lt, if_pos hat, hindex, List.getD_append_right _ _ _ _ le_rfl, Nat.sub_self]
    rfl
  · have hend : (M ++ [pb]).length ≤ 48 * (M.length / 48) + k := by
      rw [List.length_append, List.length_singleton]
      omega
    rw [if_neg habove.not_gt, if_neg habove.ne', List.getD_eq_default _ _ hend]

section
variable (s : State) (len : Nat) (ds : Byte) (w : Nat)

/-- `a1` of R190: the message's blocks and its padded tail folded. -/
def State.cycleAcc : Lanes :=
  foldBlocks Config.deck s.imask s.acc (s.din.take len ++ [padByte ds w]) (len / 48 + 1)

/-- `m1` of R190: one roll for each whole block and two for FINALIZE. -/
def State.cycleMask : Lanes := rollLinear^[len / 48 + 2] s.imask

/-- `y` of R191, the cycle's first output mask. -/
def State.cycleOmask : Lanes := P Config.deck (s.cycleAcc len ds w)

/-- The state that ABSORB of a message of `len` bytes and FINALIZE leave, from an empty input buffer. -/
def State.finalizedCycle (off : Fin 49) : State :=
  { s with
    imask := s.cycleMask len
    omask := rollNonlinear (s.cycleOmask len ds w)
    acc := s.cycleAcc len ds w
    iblk := zero48
    ioff := 0
    oblk := outputBlock Config.deck (s.cycleOmask len ds w) (s.cycleMask len) 0
    ooff := off
    mode := .finalized
    din := s.din.drop len }

end

/-- Padding and folding what ABSORB left gives `a1` and, with the two last rolls, `m1`. -/
theorem finalizeCycle_absorbEffect {len : Nat} (ds : Byte) (w : Nat) (off : Fin 49) {s : State}
    (hm : s.mode = .absorbing) (hi : s.ioff = 0) (hp : len ≤ s.din.length) :
    finalizeCycle Config.deck ds w off (absorbEffect Config.deck (s.din.take len) (s.dropDin len)) =
      s.finalizedCycle len ds w off := by
  have hM : s.iblk.toList.take s.ioff.val ++ s.din.take len = s.din.take len := by
    rw [hi, Fin.val_zero, List.take_zero, List.nil_append]
  have hlen : (s.din.take len).length = len := List.length_take_of_le hp
  have habsorbed := hasAbsorbed_absorbEffect Config.deck (s.din.take len) (s := s.dropDin len) hm
  have hframe := absorbEffect_frame Config.deck (s.din.take len) (s.dropDin len)
  rw [State.dropDin_iblk, State.dropDin_ioff, hM, State.dropDin_imask, State.dropDin_acc] at habsorbed
  generalize absorbEffect Config.deck (s.din.take len) (s.dropDin len) = u at habsorbed hframe
  have hacc : xor12 u.acc (P Config.deck (xor12 (leDecode (padBlock u.iblk u.ioff (padByte ds w))) u.imask)) =
      s.cycleAcc len ds w := by
    rw [habsorbed.padBlock, habsorbed.acc, habsorbed.imask, hlen, State.cycleAcc, foldBlocks,
      foldBlocks_append _ _ _ _ _ (hlen.symm ▸ Nat.mul_div_le len 48)]
  have himask : rollLinear (rollLinear u.imask) = s.cycleMask len := by
    rw [habsorbed.imask, hlen, State.cycleMask, Function.iterate_succ_apply', Function.iterate_succ_apply']
  rw [finalizeCycle_eq]
  dsimp only
  rw [hacc, himask, hframe]
  rfl

/-- ABSORB and FINALIZE of a cycle complete. -/
theorem runAll_absorb_finalize {len : Nat} (ds : Byte) {w : Nat} (off : Fin 49) {s : State} (rest : List Instr)
    (hk : s.keyed = true) (hf : s.fault = false) (hm : s.mode = .absorbing) (hi : s.ioff = 0)
    (hp : len ≤ s.din.length) (hw : w ≤ 7) :
    runAll (.absorb len :: .finalize ds w off.val :: rest) s = runAll rest (s.finalizedCycle len ds w off) := by
  have hcycle := finalizeCycle_absorbEffect ds w off hm hi hp
  have hframe := absorbEffect_frame Config.deck (s.din.take len) (s.dropDin len)
  rw [runAll_cons_of_next _ (exec_absorb hk hf hp)]
  generalize absorbEffect Config.deck (s.din.take len) (s.dropDin len) = u at hcycle hframe
  have hkeyed : u.keyed = true := by rw [hframe]; exact hk
  have hfault : u.fault = false := by rw [hframe]; exact hf
  have hmode : u.mode = .absorbing := by rw [hframe]; exact hm
  rw [runAll_cons_of_next _ (exec_finalize hkeyed hfault hw off.is_le), Fin.ofNat_val_eq_self,
    finalizeEffect_of_absorbing _ _ _ _ hmode, hcycle]

/-- The blocks that come after FINALIZE are `Z_0, Z_1, ..` (R191). -/
theorem upcomingBlock_finalizedCycle (s : State) (len : Nat) (ds : Byte) (w : Nat) (off : Fin 49) (j : Nat) :
    upcomingBlock Config.deck (s.finalizedCycle len ds w off) j =
      outputBlock Config.deck (s.cycleOmask len ds w) (s.cycleMask len) j := by
  cases j <;> rfl

theorem streamByte_eq_getD (c : Config) (y m1 : Lanes) (p : Nat) :
    streamByte c y m1 p = (outputBlock c y m1 (p / 48)).toList.getD (p % 48) 0 := by
  have hp : p % 48 < 48 := Nat.mod_lt _ (by decide)
  rw [streamByte, List.getD_eq_getElem _ _ (by rwa [Vector.length_toList]), Vector.getElem_toList]

/-- Settles O40: the state after FINALIZE is `finalizedCycle`, from which SQUEEZE reads along the stream. -/
theorem cycleClosedForm : Obligations.CycleClosedForm := by
  intro len n ds w off s hk hf hm hi hp hw
  have hrun := runAll_absorb_finalize ds off [.squeeze n] hk hf hm hi hp hw
  have hexec := exec_squeeze (n := n) (s := s.finalizedCycle len ds w off) hk hf
  rw [runAll_cons_of_next _ hexec, squeezeEffect_of_finalized _ _ rfl] at hrun
  refine ⟨_, hrun, ?_⟩
  cases n with
  | zero => exact ⟨rfl, rfl, rfl, rfl, (List.append_nil _).symm, nofun⟩
  | succ n =>
    rw [squeezeLoop_succ_eq_streamAt]
    refine ⟨rfl, rfl, rfl, rfl, ?emitted, fun _ => ⟨?block, ?mask, State.streamAt_ooff _ _ _⟩⟩
    case emitted =>
      simp only [State.streamAt, upcomingBlock_finalizedCycle, streamByte_eq_getD]
      rfl
    case block => exact upcomingBlock_finalizedCycle s len ds w off _
    case mask => rfl

/-- What a read of the output and RESTART leave of a `Finalized` block: its output side is gone, the bytes read are on
`dout` (R180, R192). -/
theorem runAll_squeeze_restart (n : Nat) {s : State} (hk : s.keyed = true) (hf : s.fault = false)
    (hm : s.mode = .finalized) :
    ∃ out : List Byte, out.length = n ∧ runAll [.squeeze n, .restart] s = .next
      { s with omask := zero12, oblk := zero48, ooff := 0, mode := .absorbing, dout := s.dout ++ out } := by
  obtain ⟨out, hlen, hout⟩ := squeezeLoop_dout Config.deck n s
  have hframe := squeezeLoop_frame Config.deck n s
  refine ⟨out, hlen, ?_⟩
  rw [runAll_cons_of_next _ (exec_squeeze hk hf), squeezeEffect_of_finalized _ _ hm]
  generalize squeezeLoop Config.deck n s = u at hout hframe
  have hkeyed : u.keyed = true := by rw [hframe]; exact hk
  have hfault : u.fault = false := by rw [hframe]; exact hf
  have hmode : u.mode = .finalized := by rw [hframe]; exact hm
  rw [runAll_cons_of_next _ (exec_restart hkeyed hfault), restartEffect_of_finalized hmode, runAll, ← hout, hframe]

/-- After a cycle from an `Absorbing` block there is only one place for its offset and its length read: the bytes
emitted (R192). -/
theorem runAll_finalize_squeeze_restart (ds : Byte) {w off : Nat} (n : Nat) {s : State} (hk : s.keyed = true)
    (hf : s.fault = false) (hm : s.mode = .absorbing) (hw : w ≤ 7) (ho : off ≤ 48) :
    ∃ out : List Byte, runAll [.finalize ds w off, .squeeze n, .restart] s = .next
      { finalizeCycle Config.deck ds w 0 s with
        omask := zero12, oblk := zero48, ooff := 0, mode := .absorbing, dout := s.dout ++ out } := by
  have hcycle := finalizeCycle_eq Config.deck ds w (Fin.ofNat 49 off) s
  have hcycle₀ := finalizeCycle_eq Config.deck ds w 0 s
  dsimp only at hcycle hcycle₀
  rw [runAll_cons_of_next _ (exec_finalize hk hf hw ho), finalizeEffect_of_absorbing _ _ _ _ hm]
  obtain ⟨out, -, hout⟩ := runAll_squeeze_restart n (s := finalizeCycle Config.deck ds w (Fin.ofNat 49 off) s)
    (by rw [hcycle]; exact hk) (by rw [hcycle]; exact hf) (by rw [hcycle])
  exact ⟨out, by rw [hout, hcycle, hcycle₀]⟩

/-- Settles O39: the two states are that of `runAll_finalize_squeeze_restart`, with two lists of emitted bytes. -/
theorem restartForgetsOutputSide : Obligations.RestartForgetsOutputSide := by
  intro ds w off₁ off₂ n₁ n₂ s hk hf hm hw ho₁ ho₂
  obtain ⟨out₁, hrun₁⟩ := runAll_finalize_squeeze_restart ds n₁ hk hf hm hw ho₁
  obtain ⟨out₂, hrun₂⟩ := runAll_finalize_squeeze_restart ds n₂ hk hf hm hw ho₂
  generalize finalizeCycle Config.deck ds w 0 s = u at hrun₁ hrun₂
  exact ⟨_, _, hrun₁, hrun₂, rfl, rfl⟩

/-- Settles O41: the state after FINALIZE is `finalizedCycle`, of which RESTART keeps `acc` and `imask`. -/
theorem nextCycleStartsWhereLastEnded : Obligations.NextCycleStartsWhereLastEnded := by
  intro len n ds w off s hk hf hm hi hp hw
  obtain ⟨out, hlen, hout⟩ := runAll_squeeze_restart n (s := s.finalizedCycle len ds w off) hk hf rfl
  exact ⟨out, hlen, (runAll_absorb_finalize ds off _ hk hf hm hi hp hw).trans hout⟩

end Sys2Proof.Machine
end

section
/-! The frame of each command (10_state.md R40). -/

namespace Sys2Proof.Machine

/-- Settles O49: a refused command writes nothing, a faulting one the fault alone, and a completed one what its
effect's frame says. -/
theorem commandsWriteOnlyTheirRegisters : Obligations.CommandsWriteOnlyTheirRegisters := by
  refine fun s t => ⟨fun klen h => ?new, fun len h => ?absorb, fun ds w off h => ?finalize, fun n h => ?squeeze,
    fun h => ?restart⟩
  case new =>
    rcases exec_next_cases h with ⟨-, rfl⟩ | ⟨_, -, rfl⟩ | ⟨-, -, rfl⟩
    all_goals exact ⟨rfl, rfl⟩
  case absorb =>
    rcases exec_next_cases h with ⟨-, rfl⟩ | ⟨_, -, rfl⟩ | ⟨-, -, rfl⟩
    case inr.inr =>
      rw [Command.assemble, Command.effect, absorbEffect_frame]
      exact ⟨rfl, rfl, rfl, rfl, rfl, rfl, rfl⟩
    all_goals exact ⟨rfl, rfl, rfl, rfl, rfl, rfl, rfl⟩
  case finalize =>
    rcases exec_next_cases h with ⟨-, rfl⟩ | ⟨_, -, rfl⟩ | ⟨-, -, rfl⟩
    case inr.inr =>
      obtain ⟨hkeyed, -, -, hcmd, hdin, hdout⟩ := finalizeEffect_frame Config.deck ds w (Fin.ofNat 49 off) s
      exact ⟨hkeyed, hcmd, hdin, hdout⟩
    all_goals exact ⟨rfl, rfl, rfl, rfl⟩
  case squeeze =>
    rcases exec_next_cases h with ⟨-, rfl⟩ | ⟨_, -, rfl⟩ | ⟨-, -, rfl⟩
    case inr.inr =>
      rw [Command.assemble, Command.effect, squeezeEffect_frame]
      exact ⟨rfl, rfl, rfl, rfl, rfl, rfl, rfl, rfl⟩
    all_goals exact ⟨rfl, rfl, rfl, rfl, rfl, rfl, rfl, rfl⟩
  case restart =>
    rcases exec_next_cases h with ⟨-, rfl⟩ | ⟨_, -, rfl⟩ | ⟨-, -, rfl⟩
    case inr.inr =>
      rw [Command.assemble, Command.effect, restartEffect_frame]
      exact ⟨rfl, rfl, rfl, rfl, rfl, rfl, rfl, rfl⟩
    all_goals exact ⟨rfl, rfl, rfl, rfl, rfl, rfl, rfl, rfl⟩

end Sys2Proof.Machine
end

section
/-! The invariant of the block (10_state.md R30, R32, R38; 60_exceptions.md R201, R204): reset meets it, and the
channels, a fault and the effect of each command keep it. -/

namespace Sys2Proof.Machine

/-- Settles O54: clause by clause; nothing is `Finalized`. -/
theorem resetMeetsInvariant : Obligations.ResetMeetsInvariant where
  causeIffFault := ⟨fun _ => rfl, fun _ => rfl⟩
  causeSeen := by decide
  unkeyedBlank _ := ⟨rfl, rfl, rfl, rfl, rfl⟩
  absorbingOutput _ := ⟨rfl, rfl, rfl⟩
  finalizedInput := nofun
  finalizedOutput := nofun

/-- The current block was generated from the mask whose roll `omask` is (R148, R191). -/
def State.OutputMade (s : State) : Prop :=
  ∃ y : Lanes, s.oblk = leEncode (xor12 (P Config.deck y) s.imask) ∧ s.omask = rollNonlinear y

theorem State.outputMade_nextBlock (k : Fin 49) (s : State) : (s.nextBlock Config.deck k).OutputMade :=
  ⟨s.omask, by simp, by simp⟩

theorem State.OutputMade.emitAt {s : State} (h : s.OutputMade) (k : Fin 48) : (emitAt Config.deck k s).OutputMade := by
  rcases emitAt_cases Config.deck k s with ⟨_, heq⟩ | ⟨_, heq⟩ <;> rw [heq]
  · exact h
  · exact ⟨s.omask, rfl, rfl⟩

theorem State.OutputMade.squeezeByte {s : State} (h : s.OutputMade) : (squeezeByte Config.deck s).OutputMade := by
  rcases squeezeByte_cases Config.deck s with ⟨_, heq⟩ | ⟨_, heq⟩ <;> rw [heq]
  · exact h.emitAt _
  · exact (s.outputMade_nextBlock 0).emitAt 0

theorem State.OutputMade.squeezeLoop {s : State} (h : s.OutputMade) (n : Nat) :
    (squeezeLoop Config.deck n s).OutputMade := by
  induction n generalizing s with
  | zero => exact h
  | succ n ih => exact ih h.squeezeByte

namespace BlockInv

variable {s : State}

/-- The invariant says nothing of the channels. -/
theorem channels (h : BlockInv s) (cmd : List Word) (din dout : List Byte) :
    BlockInv { s with cmd := cmd, din := din, dout := dout } :=
  ⟨h.causeIffFault, h.causeSeen, h.unkeyedBlank, h.absorbingOutput, h.finalizedInput, h.finalizedOutput⟩

theorem raiseFault (h : BlockInv s) {c : Cause} (hc : c.FromWords) : BlockInv (s.raiseFault c) where
  causeIffFault := by rcases hc with rfl | rfl | rfl | rfl <;> simp
  causeSeen := by rcases hc with rfl | rfl | rfl | rfl <;> simp
  unkeyedBlank := h.unkeyedBlank
  absorbingOutput := h.absorbingOutput
  finalizedInput := h.finalizedInput
  finalizedOutput := h.finalizedOutput

theorem newEffect (h : BlockInv s) (c : Config) (key : List Byte) : BlockInv (newEffect c key s) where
  causeIffFault := h.causeIffFault
  causeSeen := h.causeSeen
  unkeyedBlank := nofun
  absorbingOutput _ := ⟨rfl, rfl, rfl⟩
  finalizedInput := nofun
  finalizedOutput := nofun

theorem absorbEffect (h : BlockInv s) (hk : s.keyed = true) (c : Config) (m : List Byte) :
    BlockInv (absorbEffect c m s) := by
  cases hm : s.mode with
  | finalized => rwa [absorbEffect_of_finalized c m hm]
  | absorbing =>
    have hnot {p : Prop} (hfin : s.mode = .finalized) : p := by cases hm.symm.trans hfin
    rw [absorbEffect_frame]
    exact ⟨h.causeIffFault, h.causeSeen, fun hun => absurd hk (Bool.eq_false_iff.mp hun), h.absorbingOutput, hnot, hnot⟩

theorem finalizeEffect (h : BlockInv s) (hk : s.keyed = true) (ds : Byte) (w : Nat) (off : Fin 49) :
    BlockInv (finalizeEffect Config.deck ds w off s) := by
  cases hm : s.mode with
  | finalized => rwa [finalizeEffect_of_finalized _ _ _ _ hm]
  | absorbing =>
    rw [finalizeEffect_of_absorbing _ _ _ _ hm, finalizeCycle_eq]
    exact ⟨h.causeIffFault, h.causeSeen, fun hun => absurd hk (Bool.eq_false_iff.mp hun), nofun, fun _ => ⟨rfl, rfl⟩,
      fun _ => ⟨_, rfl, rfl⟩⟩

theorem squeezeEffect (h : BlockInv s) (hk : s.keyed = true) (n : Nat) : BlockInv (squeezeEffect Config.deck n s) := by
  cases hm : s.mode with
  | absorbing => rwa [squeezeEffect_of_absorbing _ _ hm]
  | finalized =>
    have hmade := State.OutputMade.squeezeLoop (h.finalizedOutput hm) n
    have hframe := squeezeLoop_frame Config.deck n s
    rw [squeezeEffect_of_finalized _ _ hm]
    generalize squeezeLoop Config.deck n s = u at hmade hframe
    have hnot {p : Prop} (habs : u.mode = .absorbing) : p := by
      rw [hframe] at habs
      cases hm.symm.trans habs
    have hun {p : Prop} (hunkeyed : u.keyed = false) : p := by
      rw [hframe] at hunkeyed
      cases hk.symm.trans hunkeyed
    refine ⟨?_, ?_, hun, hnot, fun _ => ?_, fun _ => hmade⟩ <;> rw [hframe]
    · exact h.causeIffFault
    · exact h.causeSeen
    · exact h.finalizedInput hm

theorem restartEffect (h : BlockInv s) (hk : s.keyed = true) : BlockInv (restartEffect s) := by
  cases hm : s.mode with
  | absorbing => rwa [restartEffect_of_absorbing hm]
  | finalized =>
    rw [restartEffect_of_finalized hm]
    exact ⟨h.causeIffFault, h.causeSeen, fun hun => absurd hk (Bool.eq_false_iff.mp hun), fun _ => ⟨rfl, rfl, rfl⟩,
      nofun, nofun⟩

/-- The effect of a command that passed its examination. -/
theorem effect (h : BlockInv s) {i : Instr} (hk : s.keyed = true ∨ ∃ klen, i = .new klen) (bs : List Byte) :
    BlockInv ((Command.assemble bs i).effect Config.deck s) := by
  cases i with
  | new _ => exact h.newEffect _ bs
  | absorb _ => exact h.absorbEffect (hk.resolve_right nofun) _ bs
  | finalize ds w off => exact h.finalizeEffect (hk.resolve_right nofun) ds w _
  | squeeze n => exact h.squeezeEffect (hk.resolve_right nofun) n
  | restart => exact h.restartEffect (hk.resolve_right nofun)

/-- The host's acts are on the channels, or answer the reset state. -/
theorem host (h : BlockInv s) (e : HostEvent) : BlockInv (s.host e) := by
  cases e with
  | reset => exact resetMeetsInvariant
  | send _ => exact h.channels _ _ _
  | feed _ => exact h.channels _ _ _
  | collect _ => exact h.channels _ _ _

end BlockInv

/-- Settles O55: what a step can do is one of the things that keep the invariant. -/
theorem everyStepKeepsInvariant : Obligations.EveryStepKeepsInvariant := by
  intro s t h hstep
  have htaken : BlockInv s.takeCommand := h.channels _ _ _
  rcases step_cases hstep with (rfl | rfl) | ⟨-, c, hc, rfl⟩ | ⟨i, hi⟩
  · exact h
  · exact htaken
  · exact htaken.raiseFault hc
  · obtain ⟨-, hk⟩ := examine_pass hi.passes
    have hdropped : BlockInv (s.takeCommand.dropDin (payloadLen i)) := htaken.channels _ _ _
    rw [hi.result]
    exact hdropped.effect hk _

/-- Settles O56: by induction over how the state was reached. -/
theorem reachableStatesMeetInvariant : Obligations.ReachableStatesMeetInvariant := by
  intro s h
  induction h with
  | reset => exact resetMeetsInvariant
  | step _ hstep ih => exact everyStepKeepsInvariant _ _ ih hstep
  | host _ e ih => exact ih.host e

end Sys2Proof.Machine
end

section
/-! What the effects do not look at: SQUEEZE and RESTART not at `iblk`, and no effect at `cmd` or `din`. -/

namespace Sys2Proof.Machine

section
variable (c : Config) (s : State) (b : Block) (cmd : List Word) (din : List Byte)

theorem emitAt_unread (k : Fin 48) :
    emitAt c k { s with iblk := b, cmd := cmd, din := din } =
      { emitAt c k s with iblk := b, cmd := cmd, din := din } := by
  unfold emitAt
  split <;> rfl

theorem squeezeByte_unread :
    squeezeByte c { s with iblk := b, cmd := cmd, din := din } =
      { squeezeByte c s with iblk := b, cmd := cmd, din := din } := by
  unfold squeezeByte
  split
  · exact emitAt_unread c s b cmd din _
  · exact emitAt_unread c (s.nextBlock c 0) b cmd din 0

theorem squeezeLoop_unread (n : Nat) :
    squeezeLoop c n { s with iblk := b, cmd := cmd, din := din } =
      { squeezeLoop c n s with iblk := b, cmd := cmd, din := din } := by
  induction n generalizing s with
  | zero => rfl
  | succ n ih => rw [squeezeLoop, squeezeByte_unread, ih, squeezeLoop]

theorem squeezeEffect_unread (n : Nat) :
    squeezeEffect c n { s with iblk := b, cmd := cmd, din := din } =
      { squeezeEffect c n s with iblk := b, cmd := cmd, din := din } := by
  unfold squeezeEffect
  split
  · exact squeezeLoop_unread c s b cmd din n
  · rfl

theorem restartEffect_unread :
    restartEffect { s with iblk := b, cmd := cmd, din := din } =
      { restartEffect s with iblk := b, cmd := cmd, din := din } := by
  unfold restartEffect
  split <;> rfl

end

end Sys2Proof.Machine
end

section
/-! The bytes of `iblk` at and above the cursor (10_state.md R23): each effect takes two states that agree below the
cursor to two such states, because ABSORB stores a byte before it counts it and FINALIZE pads over the rest. -/

namespace Sys2Proof.Machine

theorem agreeBelowCursor_iff {s t : State} :
    agreeBelowCursor s t ↔ ∃ b : Block, t = { s with iblk := b } ∧ ∀ k : Fin 48, k < s.ioff → s.iblk[k] = b[k] := by
  constructor
  · rintro ⟨ht, hbelow⟩
    exact ⟨t.iblk, ht, hbelow⟩
  · rintro ⟨b, rfl, hbelow⟩
    exact ⟨rfl, hbelow⟩

/-- They agree on what decides how a step goes. -/
theorem agreeBelowCursor_fields {s t : State} (h : agreeBelowCursor s t) :
    t.mode = s.mode ∧ t.fault = s.fault ∧ t.cmd = s.cmd ∧ t.din = s.din := by
  obtain ⟨b, rfl, -⟩ := agreeBelowCursor_iff.mp h
  exact ⟨rfl, rfl, rfl, rfl⟩

theorem agreeBelowCursor_refl (s : State) : agreeBelowCursor s s := ⟨rfl, fun _ _ => rfl⟩

/-- With the same byte stored at the cursor the two buffers agree at the cursor too. -/
theorem getElem_set_eq_of_agree {a b : Block} {i : Nat} (hi : i < 48) (x : Byte)
    (h : ∀ k : Fin 48, k.val < i → a[k] = b[k]) {k : Nat} (hk : k ≤ i) (hk48 : k < 48) :
    (a.set i x)[k] = (b.set i x)[k] := by
  rcases hk.lt_or_eq with hlt | rfl
  · rw [Vector.getElem_set_ne _ _ hlt.ne', Vector.getElem_set_ne _ _ hlt.ne']
    exact h ⟨k, hk48⟩ hlt
  · rw [Vector.getElem_set_self, Vector.getElem_set_self]

theorem absorbByte_agree (c : Config) {s t : State} (h : agreeBelowCursor s t) (x : Byte) :
    agreeBelowCursor (absorbByte c s x) (absorbByte c t x) := by
  obtain ⟨b, rfl, hbelow⟩ := agreeBelowCursor_iff.mp h
  have hset {k : Nat} (hk : k ≤ s.ioff.val) (hk48 : k < 48) := getElem_set_eq_of_agree s.ioff.isLt x hbelow hk hk48
  rcases absorbByte_cases c s x with ⟨hlt, hs⟩ | ⟨hlast, hs⟩
  · have ht : absorbByte c { s with iblk := b } x =
        { s with iblk := b.set s.ioff.val x, ioff := ⟨s.ioff.val + 1, hlt⟩ } := dif_pos hlt
    rw [hs, ht]
    exact agreeBelowCursor_iff.mpr ⟨_, rfl, fun k hk => hset (Nat.le_of_lt_succ hk) k.isLt⟩
  · have hblock : s.iblk.set s.ioff.val x = b.set s.ioff.val x :=
      Vector.ext fun k hk48 => hset (by omega) hk48
    have ht : absorbByte c { s with iblk := b } x = absorbByte c s x := by
      rw [absorbByte_eq_ite, absorbByte_eq_ite, if_pos hlast, if_pos hlast, hblock]
    rw [ht]
    exact agreeBelowCursor_refl _

theorem foldl_absorbByte_agree (c : Config) {s t : State} (h : agreeBelowCursor s t) (bs : List Byte) :
    agreeBelowCursor (bs.foldl (absorbByte c) s) (bs.foldl (absorbByte c) t) := by
  induction bs generalizing s t with
  | nil => exact h
  | cons x bs ih => exact ih (absorbByte_agree c h x)

/-- The padded block holds nothing of the bytes at the cursor and above. -/
theorem padBlock_eq_of_agree {a b : Block} {ioff : Fin 48} (h : ∀ k : Fin 48, k < ioff → a[k] = b[k]) (pb : Byte) :
    padBlock a ioff pb = padBlock b ioff pb := by
  apply Vector.ext
  intro k hk
  rw [padBlock_getElem _ _ _ k hk, padBlock_getElem _ _ _ k hk]
  split
  case isTrue hbelow => exact h ⟨k, hk⟩ hbelow
  case isFalse => rfl

theorem absorbEffect_agree (c : Config) (m : List Byte) {s t : State} (h : agreeBelowCursor s t) :
    agreeBelowCursor (absorbEffect c m s) (absorbEffect c m t) := by
  obtain ⟨hmode, -⟩ := agreeBelowCursor_fields h
  cases hm : s.mode with
  | absorbing =>
    rw [absorbEffect_of_absorbing c m hm, absorbEffect_of_absorbing c m (hmode.trans hm)]
    exact foldl_absorbByte_agree c h m
  | finalized => rwa [absorbEffect_of_finalized c m hm, absorbEffect_of_finalized c m (hmode.trans hm)]

theorem finalizeEffect_agree (c : Config) (ds : Byte) (w : Nat) (off : Fin 49) {s t : State}
    (h : agreeBelowCursor s t) : agreeBelowCursor (finalizeEffect c ds w off s) (finalizeEffect c ds w off t) := by
  obtain ⟨hmode, -⟩ := agreeBelowCursor_fields h
  cases hm : s.mode with
  | absorbing =>
    rw [finalizeEffect_of_absorbing c ds w off hm, finalizeEffect_of_absorbing c ds w off (hmode.trans hm)]
    obtain ⟨b, rfl, hbelow⟩ := agreeBelowCursor_iff.mp h
    rw [finalizeCycle_eq, finalizeCycle_eq, padBlock_eq_of_agree hbelow]
    exact agreeBelowCursor_refl _
  | finalized =>
    rwa [finalizeEffect_of_finalized c ds w off hm, finalizeEffect_of_finalized c ds w off (hmode.trans hm)]

theorem squeezeEffect_agree (c : Config) (n : Nat) {s t : State} (h : agreeBelowCursor s t) :
    agreeBelowCursor (squeezeEffect c n s) (squeezeEffect c n t) := by
  obtain ⟨b, rfl, hbelow⟩ := agreeBelowCursor_iff.mp h
  have ht := squeezeEffect_unread c s b s.cmd s.din n
  have hframe := squeezeEffect_frame c n s
  dsimp only at ht
  rw [ht]
  generalize squeezeEffect c n s = u at hframe
  refine agreeBelowCursor_iff.mpr ⟨b, ?_, ?_⟩
  · rw [hframe]
  · rw [hframe]
    exact hbelow

theorem restartEffect_agree {s t : State} (h : agreeBelowCursor s t) :
    agreeBelowCursor (restartEffect s) (restartEffect t) := by
  obtain ⟨b, rfl, hbelow⟩ := agreeBelowCursor_iff.mp h
  have ht := restartEffect_unread s b s.cmd s.din
  have hframe := restartEffect_frame s
  dsimp only at ht
  rw [ht]
  generalize restartEffect s = u at hframe
  refine agreeBelowCursor_iff.mpr ⟨b, ?_, ?_⟩
  · rw [hframe]
  · rw [hframe]
    exact hbelow

theorem effect_agree (c : Config) (x : Command) {s t : State} (h : agreeBelowCursor s t) :
    agreeBelowCursor (x.effect c s) (x.effect c t) := by
  cases x with
  | new key =>
    obtain ⟨b, rfl, -⟩ := agreeBelowCursor_iff.mp h
    exact agreeBelowCursor_refl (newEffect c key s)
  | absorb m => exact absorbEffect_agree c m h
  | finalize ds w off => exact finalizeEffect_agree c ds w _ h
  | squeeze n => exact squeezeEffect_agree c n h
  | restart => exact restartEffect_agree h

/-- The examination does not look at `iblk`. -/
theorem examine_agree (i : Instr) {s t : State} (h : agreeBelowCursor s t) : examine i t = examine i s := by
  obtain ⟨b, rfl, -⟩ := agreeBelowCursor_iff.mp h
  cases i <;> rfl

theorem exec_agree {i : Instr} {s t s' : State} (h : agreeBelowCursor s t) (hs : exec i s = .next s') :
    ∃ t', exec i t = .next t' ∧ agreeBelowCursor s' t' := by
  have hexamine := examine_agree i h
  obtain ⟨b, rfl, hbelow⟩ := agreeBelowCursor_iff.mp h
  rcases exec_next_cases hs with ⟨hfault, rfl⟩ | ⟨c, hraise, rfl⟩ | ⟨hpass, hpayload, rfl⟩
  · exact ⟨_, exec_of_fault i hfault, h⟩
  · exact ⟨_, exec_of_raise (hexamine.trans hraise), rfl, hbelow⟩
  · refine ⟨_, exec_of_pass (hexamine.trans hpass) hpayload, effect_agree Config.deck _ ⟨rfl, hbelow⟩⟩

theorem takeCommand_agree {s t : State} (h : agreeBelowCursor s t) : agreeBelowCursor s.takeCommand t.takeCommand := by
  obtain ⟨b, rfl, hbelow⟩ := agreeBelowCursor_iff.mp h
  exact ⟨rfl, hbelow⟩

theorem illegalCommand_agree {s t : State} (h : agreeBelowCursor s t) :
    agreeBelowCursor (illegalCommand s) (illegalCommand t) := by
  obtain ⟨-, hfault, -⟩ := agreeBelowCursor_fields h
  cases hf : s.fault with
  | true => rwa [illegalCommand_of_fault hf, illegalCommand_of_fault (hfault.trans hf)]
  | false =>
    rw [illegalCommand_of_ok hf, illegalCommand_of_ok (hfault.trans hf)]
    obtain ⟨b, rfl, hbelow⟩ := agreeBelowCursor_iff.mp h
    exact ⟨rfl, hbelow⟩

theorem step_agree {s t s' : State} (h : agreeBelowCursor s t) (hs : step s = .next s') :
    ∃ t', step t = .next t' ∧ agreeBelowCursor s' t' := by
  obtain ⟨-, -, hcmd, hdin⟩ := agreeBelowCursor_fields h
  cases hwords : s.cmd with
  | nil =>
    obtain rfl := Host.Outcome.next.inj ((step_of_cmd_nil hwords).symm.trans hs)
    exact ⟨t, step_of_cmd_nil (hcmd.trans hwords), h⟩
  | cons c rest =>
    cases hdecode : decode c with
    | error e =>
      obtain rfl := Host.Outcome.next.inj ((step_of_decode_error hwords hdecode).symm.trans hs)
      exact ⟨_, step_of_decode_error (hcmd.trans hwords) hdecode, illegalCommand_agree (takeCommand_agree h)⟩
    | ok i =>
      have hready : payloadReady i t = payloadReady i s := by
        rw [payloadReady, payloadNeed, examine_agree i h, hdin, payloadReady, payloadNeed]
      rw [step_of_decode_ok hwords hdecode] at hs
      rw [step_of_decode_ok (hcmd.trans hwords) hdecode, hready]
      split at hs
      case isTrue hpayload =>
        rw [if_pos hpayload]
        exact exec_agree (takeCommand_agree h) hs
      case isFalse hwaits =>
        obtain rfl := Host.Outcome.next.inj hs
        rw [if_neg hwaits]
        exact ⟨t, rfl, h⟩

/-- Settles O57: the two next states agree below the cursor, so they have the same `dout` and the same `STATUS`. -/
theorem bytesAboveCursorNeverMatter : Obligations.BytesAboveCursorNeverMatter := by
  intro s t s' h hs
  obtain ⟨t', ht, hagree⟩ := step_agree h hs
  obtain ⟨b, rfl, -⟩ := agreeBelowCursor_iff.mp hagree
  exact ⟨_, ht, hagree, rfl, State.status_congr rfl rfl rfl rfl⟩

end Sys2Proof.Machine
end

section
/-! The encoded level runs the abstract level (00_scope.md R17): a step on the word of a command, its payload on
`din`, is the run of the abstract command, which looks at neither channel. -/

namespace Sys2Proof.Machine

theorem absorbEffect_cmd_din (c : Config) (m : List Byte) (s : State) (cmd : List Word) (din : List Byte) :
    absorbEffect c m { s with cmd := cmd, din := din } = { absorbEffect c m s with cmd := cmd, din := din } := by
  have hchannels := absorbEffect_channels c m s cmd din s.dout
  have hframe := absorbEffect_frame c m s
  refine hchannels.trans ?_
  generalize absorbEffect c m s = u at hframe
  rw [hframe]

theorem effect_cmd_din (c : Config) (x : Command) (s : State) (cmd : List Word) (din : List Byte) :
    x.effect c { s with cmd := cmd, din := din } = { x.effect c s with cmd := cmd, din := din } := by
  cases x with
  | new _ => rfl
  | absorb m => exact absorbEffect_cmd_din c m s cmd din
  | finalize ds w off =>
    unfold Command.effect finalizeEffect
    dsimp only
    split <;> rfl
  | squeeze n =>
    have h := squeezeEffect_unread c s s.iblk cmd din n
    have hframe := squeezeEffect_frame c n s
    refine h.trans ?_
    rw [Command.effect]
    generalize squeezeEffect c n s = u at hframe
    rw [hframe]
  | restart =>
    have h := restartEffect_unread s s.iblk cmd din
    have hframe := restartEffect_frame s
    refine h.trans ?_
    rw [Command.effect]
    generalize restartEffect s = u at hframe
    rw [hframe]

theorem run_cmd_din (c : Config) (x : Command) (s : State) (cmd : List Word) (din : List Byte) :
    x.run c { s with cmd := cmd, din := din } = { x.run c s with cmd := cmd, din := din } := by
  have hexamine : examine x.operands { s with cmd := cmd, din := din } = examine x.operands s := by
    cases x.operands <;> rfl
  rw [Command.run, Command.run, hexamine]
  cases examine x.operands s with
  | refuse => rfl
  | raise _ => rfl
  | pass => exact effect_cmd_din c x s cmd din

theorem foldl_run_cmd_din (c : Config) (xs : List Command) (s : State) (cmd : List Word) (din : List Byte) :
    xs.foldl (fun u x => x.run c u) { s with cmd := cmd, din := din } =
      { xs.foldl (fun u x => x.run c u) s with cmd := cmd, din := din } := by
  induction xs generalizing s with
  | nil => rfl
  | cons x xs ih => rw [List.foldl_cons, List.foldl_cons, run_cmd_din, ih]

@[simp] theorem assemble_payload (x : Command) : Command.assemble x.payload x.operands = x := by
  cases x <;> rfl

@[simp] theorem payloadLen_operands (x : Command) : payloadLen x.operands = x.payload.length := by
  cases x <;> rfl

theorem run_of_refuse {c : Config} {x : Command} {s : State} (h : examine x.operands s = .refuse) : x.run c s = s := by
  rw [Command.run, h, settle_refuse, id]

theorem run_of_raise {c : Config} {x : Command} {s : State} {cause : Cause}
    (h : examine x.operands s = .raise cause) : x.run c s = s.raiseFault cause := by
  rw [Command.run, h, settle_raise, id]

theorem run_of_pass {c : Config} {x : Command} {s : State} (h : examine x.operands s = .pass) :
    x.run c s = x.effect c s := by
  rw [Command.run, h, settle_pass]

theorem fault_of_examine_refuse {i : Instr} {s : State} (h : examine i s = .refuse) : s.fault = true := by
  have hexec : exec i s = .next s := by rw [exec_eq_settle, h, settle_refuse]
  rcases exec_next_cases hexec with ⟨hfault, -⟩ | ⟨c, hraise, -⟩ | ⟨hpass, -⟩
  · exact hfault
  · cases h.symm.trans hraise
  · cases h.symm.trans hpass

/-- A command that passes its examination takes its word and its payload and has its effect. -/
theorem step_runs_passing {x : Command} {rest : List Word} {more : List Byte} {s : State}
    (hdecode : decode (encode x.operands) = .ok x.operands) (hcmd : s.cmd = encode x.operands :: rest)
    (hdin : s.din = x.payload ++ more) (hpass : examine x.operands s = .pass) :
    step s = .next { x.run Config.deck s with cmd := rest, din := more } := by
  have hpayload : payloadLen x.operands ≤ s.din.length := by
    rw [payloadLen_operands, hdin, List.length_append]
    exact Nat.le_add_right _ _
  have hready : payloadReady x.operands s = true :=
    payloadReady_iff.mpr ((payloadNeed_of_pass hpass).symm ▸ hpayload)
  have htake : s.din.take (payloadLen x.operands) = x.payload := by
    rw [payloadLen_operands, hdin, List.take_left]
  have hdrop : s.takeCommand.dropDin (payloadLen x.operands) = { s with cmd := rest, din := more } := by
    rw [State.takeCommand_of_cons hcmd, State.dropDin]
    dsimp only
    rw [payloadLen_operands, hdin, List.drop_left]
  rw [step_of_decode_ok hcmd hdecode, if_pos hready,
    exec_of_pass ((examine_takeCommand _ s).trans hpass) hpayload, State.takeCommand_din, htake, hdrop,
    assemble_payload, effect_cmd_din, run_of_pass hpass]

/-- A command that faults or is refused takes its word alone. -/
theorem step_runs_stopped {x : Command} {rest : List Word} {s : State}
    (hdecode : decode (encode x.operands) = .ok x.operands) (hcmd : s.cmd = encode x.operands :: rest)
    (hstop : examine x.operands s ≠ .pass) :
    step s = .next { x.run Config.deck s with cmd := rest, din := s.din } ∧ (x.run Config.deck s).fault = true := by
  cases hv : examine x.operands s with
  | pass => exact absurd hv hstop
  | refuse =>
    have hfault := fault_of_examine_refuse hv
    rw [step_of_fault hfault, State.takeCommand_of_cons hcmd, run_of_refuse hv]
    exact ⟨rfl, hfault⟩
  | raise c =>
    have hready : payloadReady x.operands s = true :=
      payloadReady_iff.mpr (by rw [payloadNeed, hv]; exact Nat.zero_le _)
    rw [step_of_decode_ok hcmd hdecode, if_pos hready, exec_of_raise ((examine_takeCommand _ s).trans hv),
      State.takeCommand_of_cons hcmd, run_of_raise hv]
    exact ⟨rfl, rfl⟩

/-- One command of the list: its word is taken, and unless a fault is recorded its payload. On a faulted block
nothing need be on `din`. -/
theorem step_runs_command {x : Command} {rest : List Word} {more : List Byte} {s : State}
    (hwf : x.operands.wellFormed = true) (hcmd : s.cmd = encode x.operands :: rest)
    (hdin : s.fault = false → s.din = x.payload ++ more) :
    ∃ din' : List Byte, step s = .next { x.run Config.deck s with cmd := rest, din := din' } ∧
      ((x.run Config.deck s).fault = false → din' = more) := by
  have hdecode := decodeEncodeAgree _ hwf
  by_cases hpass : examine x.operands s = .pass
  · obtain ⟨hf, -⟩ := examine_pass hpass
    exact ⟨more, step_runs_passing hdecode hcmd (hdin hf) hpass, fun _ => rfl⟩
  · obtain ⟨hstep, hfault⟩ := step_runs_stopped hdecode hcmd hpass
    exact ⟨s.din, hstep, fun hok => absurd hfault (Bool.eq_false_iff.mp hok)⟩

theorem coreRun_succ_of_step {s t : State} (k : Nat) (h : step s = .next t) :
    Host.Core.run Sys2Proof.core (k + 1) s = Host.Core.run Sys2Proof.core k t := by
  have hcore : Sys2Proof.core.step s = .next t := h
  simp only [Host.Core.run, hcore]

/-- The list of commands, one step each; once a fault is recorded nothing need be on `din`. -/
theorem coreRun_runs_commands {xs : List Command} {rest : List Word} {more : List Byte} {s : State}
    (hwf : ∀ x ∈ xs, x.operands.wellFormed = true) (hcmd : s.cmd = xs.map (fun x => encode x.operands) ++ rest)
    (hdin : s.fault = false → s.din = xs.flatMap Command.payload ++ more) :
    ∃ din' : List Byte,
      Host.Core.run Sys2Proof.core xs.length s = .next
        ({ xs.foldl (fun u x => x.run Config.deck u) s with cmd := rest, din := din' } : State) ∧
      ((xs.foldl (fun u x => x.run Config.deck u) s).fault = false → din' = more) := by
  induction xs generalizing s with
  | nil =>
    obtain rfl : s.cmd = rest := hcmd
    exact ⟨s.din, rfl, hdin⟩
  | cons x xs ih =>
    obtain ⟨hwfHead, hwfTail⟩ := List.forall_mem_cons.mp hwf
    obtain ⟨din₁, hstep, hdin₁⟩ := step_runs_command (more := xs.flatMap Command.payload ++ more) hwfHead hcmd
      fun hf => (hdin hf).trans (by rw [List.flatMap_cons, List.append_assoc])
    obtain ⟨din', hrun, hdin'⟩ := ih hwfTail
      (s := { x.run Config.deck s with cmd := xs.map (fun x => encode x.operands) ++ rest, din := din₁ }) rfl hdin₁
    rw [foldl_run_cmd_din] at hrun hdin'
    exact ⟨din', (coreRun_succ_of_step _ hstep).trans hrun, hdin'⟩

/-- Settles O58: all payloads are on `din`, faulted or not. -/
theorem wordsRunAbstractCommands : Obligations.WordsRunAbstractCommands := by
  intro xs rest more s hwf hcmd hdin
  obtain ⟨din', hrun, hdin'⟩ := coreRun_runs_commands hwf hcmd fun _ => hdin
  exact ⟨_, din', hrun, rfl, hdin'⟩

end Sys2Proof.Machine
end

section
/-! The text form (30_encoding.md R82): what the writer prints of numbers and byte strings is read back, holds no space
and no comma, and so stands whole in a line that is cut at spaces and commas. -/

namespace Sys2Proof.Machine

/-! Numbers in decimal. -/

theorem hexValue_of_isDigit {c : Char} (h : c.isDigit = true) : hexValue c = some (c.toNat - '0'.toNat) := by
  obtain ⟨hlo, hhi⟩ := Char.isDigit_iff_toNat.mp h
  exact if_pos ⟨hlo, hhi⟩

/-- The reader of decimal digits is the library's. -/
theorem readDigits_ten {t : List Char} (h : ∀ c ∈ t, c.isDigit = true) (n : Nat) :
    readDigits 10 t n = some (Nat.ofDigitChars 10 t n) := by
  induction t generalizing n with
  | nil => rfl
  | cons c t ih =>
    obtain ⟨hc, ht⟩ := List.forall_mem_cons.mp h
    obtain ⟨hlo, hhi⟩ := Char.isDigit_iff_toNat.mp hc
    have hlt : c.toNat - '0'.toNat < 10 := Nat.sub_lt_right_of_lt_add hlo (Nat.lt_succ_of_le hhi)
    rw [readDigits, hexValue_of_isDigit hc]
    dsimp only
    rw [if_pos hlt, ih ht, Nat.ofDigitChars_cons]

/-- Digits are not taken for a hex number: none of them is the `x` of `0x`. -/
theorem readNumber_of_isDigit {t : List Char} (hne : t ≠ []) (h : ∀ c ∈ t, c.isDigit = true) :
    readNumber t = readDigits 10 t 0 := by
  unfold readNumber
  split
  · exact absurd rfl hne
  · exact absurd (h 'x' (by simp)) (by decide)
  · rfl

theorem isDigit_of_mem_decimal {n : Nat} {c : Char} (h : c ∈ Nat.toDigits 10 n) : c.isDigit = true :=
  Nat.isDigit_of_mem_toDigits (by decide) le_rfl h

theorem readNumber_decimal (n : Nat) : readNumber (Nat.toDigits 10 n) = some n := by
  rw [readNumber_of_isDigit Nat.toDigits_ne_nil fun _ => isDigit_of_mem_decimal,
    readDigits_ten fun _ => isDigit_of_mem_decimal, Nat.ofDigitChars_ten_toDigits]

/-! Byte strings. -/

theorem hexValue_hexDigit : ∀ n < 16, hexValue (hexDigit n) = some n := by decide

theorem readPairs_hexPairs (bs : List Byte) : readPairs (hexPairs bs) = some bs := by
  induction bs with
  | nil => rfl
  | cons b bs ih =>
    have hb := b.isLt
    have hbyte : BitVec.ofNat 8 (16 * (b.toNat / 16) + b.toNat % 16) = b := by
      rw [Nat.div_add_mod, BitVec.ofNat_toNat, BitVec.setWidth_eq]
    rw [hexPairs, readPairs, hexValue_hexDigit _ (by omega), hexValue_hexDigit _ (by omega), ih]
    dsimp only
    rw [hbyte]

theorem readBytes_bytesText (bs : List Byte) : readBytes (bytesText bs) = some bs := by
  cases bs with
  | nil => rfl
  | cons b bs =>
    rw [bytesText, if_neg (List.cons_ne_nil b bs), readBytes, if_neg (by simp [hexPairs]), if_neg (by simp [hexPairs]),
      readPairs_hexPairs]

/-! Operands as fields of a line. -/

/-- An operand as it is printed: some text without a space and without a comma. -/
structure IsField (t : List Char) : Prop where
  ne_nil : t ≠ []
  no_space : ' ' ∉ t
  no_comma : ',' ∉ t

theorem isField_decimal (n : Nat) : IsField (Nat.toDigits 10 n) where
  ne_nil := Nat.toDigits_ne_nil
  no_space h := absurd (isDigit_of_mem_decimal h) (by decide)
  no_comma h := absurd (isDigit_of_mem_decimal h) (by decide)

theorem hexDigit_ne_separator : ∀ n < 16, ' ' ≠ hexDigit n ∧ ',' ≠ hexDigit n := by decide

theorem separator_notMem_hexPairs (bs : List Byte) : ' ' ∉ hexPairs bs ∧ ',' ∉ hexPairs bs := by
  induction bs with
  | nil => exact ⟨List.not_mem_nil, List.not_mem_nil⟩
  | cons b bs ih =>
    have hb := b.isLt
    obtain ⟨hspaceHi, hcommaHi⟩ := hexDigit_ne_separator (b.toNat / 16) (by omega)
    obtain ⟨hspaceLo, hcommaLo⟩ := hexDigit_ne_separator (b.toNat % 16) (by omega)
    simp [hexPairs, ih, hspaceHi, hcommaHi, hspaceLo, hcommaLo]

theorem isField_bytesText (bs : List Byte) : IsField (bytesText bs) := by
  cases bs with
  | nil => exact ⟨by decide, by decide, by decide⟩
  | cons b bs =>
    obtain ⟨hspace, hcomma⟩ := separator_notMem_hexPairs (b :: bs)
    rw [bytesText, if_neg (List.cons_ne_nil b bs)]
    exact ⟨List.cons_ne_nil _ _, hspace, hcomma⟩

/-! Spaces. -/

/-- No space at either end. -/
def Trimmed (t : List Char) : Prop := t.head? ≠ some ' ' ∧ t.reverse.head? ≠ some ' '

theorem dropWhile_space_of_head? {t : List Char} (h : t.head? ≠ some ' ') : t.dropWhile (· == ' ') = t := by
  cases t with
  | nil => rfl
  | cons c t =>
    have hc : c ≠ ' ' := fun hc => h (congrArg some hc)
    rw [List.dropWhile_cons_of_neg (by simpa using hc)]

theorem trimSpaces_of_trimmed {t : List Char} (h : Trimmed t) : trimSpaces t = t := by
  obtain ⟨hfront, hback⟩ := h
  rw [trimSpaces, dropWhile_space_of_head? hfront, dropWhile_space_of_head? hback, List.reverse_reverse]

theorem trimSpaces_cons_space (t : List Char) : trimSpaces (' ' :: t) = trimSpaces t := rfl

/-- A line that begins and ends with text without spaces is trimmed. -/
theorem trimmed_append {a b : List Char} (ha : a ≠ []) (hb : b ≠ []) (hfront : ' ' ∉ a) (hback : ' ' ∉ b)
    (mid : List Char) : Trimmed (a ++ mid ++ b) := by
  constructor
  · rw [List.append_assoc, List.head?_append_of_ne_nil _ ha]
    exact fun h => hfront (List.mem_of_mem_head? h)
  · rw [List.reverse_append, List.head?_append_of_ne_nil _ (List.reverse_ne_nil_iff.mpr hb)]
    exact fun h => hback (List.mem_reverse.mp (List.mem_of_mem_head? h))

theorem IsField.trimmed {t : List Char} (h : IsField t) : Trimmed t :=
  ⟨fun hc => h.no_space (List.mem_of_mem_head? hc),
    fun hc => h.no_space (List.mem_reverse.mp (List.mem_of_mem_head? hc))⟩

theorem IsField.trimSpaces {t : List Char} (h : IsField t) : trimSpaces t = t := trimSpaces_of_trimmed h.trimmed

/-! Lines. -/

theorem splitAtChar_of_notMem {sep : Char} {a : List Char} (h : sep ∉ a) : splitAtChar sep a = [a] := by
  induction a with
  | nil => rfl
  | cons c a ih =>
    obtain ⟨hc, ha⟩ : sep ≠ c ∧ sep ∉ a := by simpa using h
    rw [splitAtChar, if_neg (Ne.symm hc), ih ha]

theorem splitAtChar_append_cons {sep : Char} {a : List Char} (h : sep ∉ a) (t : List Char) :
    splitAtChar sep (a ++ sep :: t) = a :: splitAtChar sep t := by
  induction a with
  | nil => rw [List.nil_append, splitAtChar, if_pos rfl]
  | cons c a ih =>
    obtain ⟨hc, ha⟩ : sep ≠ c ∧ sep ∉ a := by simpa using h
    rw [List.cons_append, splitAtChar, if_neg (Ne.symm hc), ih ha]

section
variable {mnemonic ops : List Char} (hspace : ' ' ∉ mnemonic)
include hspace

theorem lineMnemonic_append : lineMnemonic (mnemonic ++ ' ' :: ops) = mnemonic := by
  have hall : ∀ c ∈ mnemonic, (c != ' ') = true := fun c hc => bne_iff_ne.mpr fun h => hspace (h ▸ hc)
  rw [lineMnemonic, List.takeWhile_append_of_pos hall, List.takeWhile_cons_of_neg (by decide), List.append_nil]

theorem lineOperands_append (hops : Trimmed ops) (hne : ops ≠ []) :
    lineOperands (mnemonic ++ ' ' :: ops) = (splitAtChar ',' ops).map trimSpaces := by
  have hall : ∀ c ∈ mnemonic, (c != ' ') = true := fun c hc => bne_iff_ne.mpr fun h => hspace (h ▸ hc)
  rw [lineOperands, List.dropWhile_append_of_pos hall, List.dropWhile_cons_of_neg (by decide), trimSpaces_cons_space,
    trimSpaces_of_trimmed hops]
  obtain ⟨c, r, rfl⟩ := List.exists_cons_of_ne_nil hne
  rfl

end

/-- A line of a mnemonic and operands, cut at the space and at the commas. -/
theorem line_parts {mnemonic ops : List Char} (hm : IsField mnemonic) (hops : Trimmed ops) (hne : ops ≠ []) :
    lineMnemonic (trimSpaces (mnemonic ++ ' ' :: ops)) = mnemonic ∧
    lineOperands (trimSpaces (mnemonic ++ ' ' :: ops)) = (splitAtChar ',' ops).map trimSpaces := by
  have hline : Trimmed (mnemonic ++ ' ' :: ops) := by
    obtain ⟨-, hback⟩ := hops
    constructor
    · rw [List.head?_append_of_ne_nil _ hm.ne_nil]
      exact hm.trimmed.1
    · rw [List.reverse_append, List.reverse_cons, List.append_assoc,
        List.head?_append_of_ne_nil _ (List.reverse_ne_nil_iff.mpr hne)]
      exact hback
  rw [trimSpaces_of_trimmed hline]
  exact ⟨lineMnemonic_append hm.no_space, lineOperands_append hm.no_space hops hne⟩

theorem line_parts_one {mnemonic a : List Char} (hm : IsField mnemonic) (ha : IsField a) :
    lineMnemonic (trimSpaces (mnemonic ++ ' ' :: a)) = mnemonic ∧
    lineOperands (trimSpaces (mnemonic ++ ' ' :: a)) = [a] := by
  obtain ⟨hmnemonic, hoperands⟩ := line_parts hm ha.trimmed ha.ne_nil
  refine ⟨hmnemonic, hoperands.trans ?_⟩
  rw [splitAtChar_of_notMem ha.no_comma, List.map_singleton, ha.trimSpaces]

/-- Three operands, a space after each comma. -/
theorem line_parts_three {mnemonic a b c : List Char} (hm : IsField mnemonic) (ha : IsField a) (hb : IsField b)
    (hc : IsField c) :
    let ops := a ++ ',' :: ' ' :: (b ++ ',' :: ' ' :: c)
    lineMnemonic (trimSpaces (mnemonic ++ ' ' :: ops)) = mnemonic ∧
    lineOperands (trimSpaces (mnemonic ++ ' ' :: ops)) = [a, b, c] := by
  intro ops
  have hops : ops = a ++ ([',', ' '] ++ b ++ [',', ' ']) ++ c := by simp [ops]
  have htrimmed : Trimmed ops := hops ▸ trimmed_append ha.ne_nil hc.ne_nil ha.no_space hc.no_space _
  have hspaced {t : List Char} (ht : IsField t) : ',' ∉ ' ' :: t :=
    List.not_mem_cons_of_ne_of_not_mem (by decide) ht.no_comma
  obtain ⟨hmnemonic, hoperands⟩ := line_parts hm htrimmed (by simp [ops])
  refine ⟨hmnemonic, hoperands.trans ?_⟩
  rw [splitAtChar_append_cons ha.no_comma, ← List.cons_append, splitAtChar_append_cons (hspaced hb),
    splitAtChar_of_notMem (hspaced hc)]
  simp only [List.map_cons, List.map_nil, trimSpaces_cons_space, ha.trimSpaces, hb.trimSpaces, hc.trimSpaces]

/-! Each command's line is read back. -/

theorem readCommand_text_new (key : List Byte) : readCommand (Command.new key).text = some (.new key) := by
  obtain ⟨hmnemonic, hoperands⟩ := line_parts_one (mnemonic := ['N', 'E', 'W']) ⟨by decide, by decide, by decide⟩
    (isField_bytesText key)
  have htext : (Command.new key).text = ['N', 'E', 'W'] ++ ' ' :: bytesText key := rfl
  rw [readCommand, htext, hmnemonic, hoperands]
  exact congrArg (Option.map Command.new) (readBytes_bytesText key)

theorem readCommand_text_absorb (message : List Byte) :
    readCommand (Command.absorb message).text = some (.absorb message) := by
  obtain ⟨hmnemonic, hoperands⟩ := line_parts_one (mnemonic := ['A', 'B', 'S', 'O', 'R', 'B'])
    ⟨by decide, by decide, by decide⟩ (isField_bytesText message)
  have htext : (Command.absorb message).text = ['A', 'B', 'S', 'O', 'R', 'B'] ++ ' ' :: bytesText message := rfl
  rw [readCommand, htext, hmnemonic, hoperands]
  exact congrArg (Option.map Command.absorb) (readBytes_bytesText message)

theorem readCommand_text_squeeze (n : Nat) : readCommand (Command.squeeze n).text = some (.squeeze n) := by
  obtain ⟨hmnemonic, hoperands⟩ := line_parts_one (mnemonic := ['S', 'Q', 'U', 'E', 'E', 'Z', 'E'])
    ⟨by decide, by decide, by decide⟩ (isField_decimal n)
  have htext : (Command.squeeze n).text = ['S', 'Q', 'U', 'E', 'E', 'Z', 'E'] ++ ' ' :: Nat.toDigits 10 n := rfl
  rw [readCommand, htext, hmnemonic, hoperands]
  exact congrArg (Option.map Command.squeeze) (readNumber_decimal n)

theorem readCommand_text_finalize (ds : Byte) (w off : Nat) :
    readCommand (Command.finalize ds w off).text = some (.finalize ds w off) := by
  obtain ⟨hmnemonic, hoperands⟩ := line_parts_three (mnemonic := ['F', 'I', 'N', 'A', 'L', 'I', 'Z', 'E'])
    ⟨by decide, by decide, by decide⟩ (isField_decimal ds.toNat) (isField_decimal w) (isField_decimal off)
  have htext : (Command.finalize ds w off).text = ['F', 'I', 'N', 'A', 'L', 'I', 'Z', 'E'] ++
      ' ' :: (Nat.toDigits 10 ds.toNat ++ ',' :: ' ' :: (Nat.toDigits 10 w ++ ',' :: ' ' :: Nat.toDigits 10 off)) := by
    simp [Command.text]
  rw [readCommand, htext, hmnemonic, hoperands]
  change (match readNumber (Nat.toDigits 10 ds.toNat), readNumber (Nat.toDigits 10 w),
      readNumber (Nat.toDigits 10 off) with
    | some ds, some width, some off => if ds < 256 then some (Command.finalize (BitVec.ofNat 8 ds) width off) else none
    | _, _, _ => none) = _
  rw [readNumber_decimal, readNumber_decimal, readNumber_decimal]
  dsimp only
  rw [if_pos ds.isLt, BitVec.ofNat_toNat, BitVec.setWidth_eq]

/-- Settles O60: by the command; RESTART has no operands, and its line is read by evaluation. -/
theorem textFormReadsBack : Obligations.TextFormReadsBack := by
  intro x
  cases x with
  | new key => exact readCommand_text_new key
  | absorb message => exact readCommand_text_absorb message
  | finalize ds w off => exact readCommand_text_finalize ds w off
  | squeeze n => exact readCommand_text_squeeze n
  | restart => decide

end Sys2Proof.Machine
end
